-- ==== Sys2Proof/Word.lean ====
section
/-! DEFINITION. The plain byte types every other file uses: the byte, the 4-byte field and the 7-byte frame head. -/

namespace Sys2Proof

/-- A byte, 8 bits (R8). -/
abbrev Byte := BitVec 8

/-- A 4-byte field in transmission order, `b0` first: a scalar address, a length field or an echoed address
(R41, R61 to R63). Its bytes are any bytes: where a rule needs digits it checks them (R69). -/
structure Quad where
  b0 : Byte
  b1 : Byte
  b2 : Byte
  b3 : Byte
  deriving DecidableEq, Repr, Inhabited

/-- The 7 bytes at frame offsets 0 to 6 (`PFX_LEN`, R60). -/
structure FrameHead where
  h0 : Byte
  h1 : Byte
  h2 : Byte
  h3 : Byte
  h4 : Byte
  h5 : Byte
  h6 : Byte
  deriving DecidableEq, Repr, Inhabited

end Sys2Proof
end

