-- ==== Sys2Proof/Config.lean ====
section
/-! DEFINITION. What an implementation fixes (R5, R18): the constants of the source, the OPEN parameters as one
record, and the free values, which have no body. -/

namespace Sys2Proof

/-- The `value` of a `RESULT` (R71): bytes, one optional byte, a list of `(addr, data)` pairs, or absent. It stands
here because one free value below has this type. -/
inductive Value where
  | absent
  | bytes (b : List Byte)
  | optByte (b : Option Byte)
  | pairs (p : List (Quad × List Byte))
  deriving DecidableEq, Repr, Inhabited

/-- The OPEN parameters of R5. They are no registers: no event writes them (R18). A state carries them so that a
statement about every state is a statement about every implementation (log 3). -/
structure Config where
  /-- `PFX_STORE[0..6]`, the first 7 bytes of a store frame. -/
  pfxStore : FrameHead
  /-- `PFX_QUERY[0..6]`, the first 7 bytes of a query frame. -/
  pfxQuery : FrameHead
  /-- `TICK_PERIOD`, the real duration of one time unit. No rule reads it (R213). -/
  tickPeriod : Nat
  /-- `BUF_CHUNKS`, the capacity of the chunk buffer in entries. -/
  bufChunks : Nat
  /-- `BUF_PAYLOAD_MAX`, the largest chunk data, in bytes, that one entry holds. -/
  bufPayloadMax : Nat
  /-- `TX_DATA_MAX`, the largest data field of one `SEND_STORE`. -/
  txDataMax : Nat
  /-- `DROP_BAD_CSUM`, whether an inbound chunk that fails its checksum is dropped. -/
  dropBadCsum : Bool
  deriving DecidableEq, Repr

namespace Config

/-- `CHUNK_MAX` (R5): the divisor of the target-count formula. -/
def chunkMax : Nat := 241

/-- `TIMEOUT_TICKS` (R5): time units a counted query waits. -/
def timeoutTicks : BitVec 16 := 5

/-- The bounds on the parameters: `BUF_CHUNKS` at least 1 and below 2^21, the width of `CNT` (R5, R14; log 11),
`BUF_PAYLOAD_MAX` at least 241 (R5), and prefixes that differ (R5, D1). -/
abbrev Legal (c : Config) : Prop :=
  1 ≤ c.bufChunks ∧ c.bufChunks < 2 ^ 21 ∧ 241 ≤ c.bufPayloadMax ∧ c.pfxStore ≠ c.pfxQuery

/-- FREE VALUE (log 4): `PFX_STORE` of the machine at reset. The spec gives no byte of it (N1). -/
opaque freePfxStore : FrameHead

/-- FREE VALUE (log 4): `PFX_QUERY` of the machine at reset, before `distinctFrom`. The spec gives no byte of it (N1). -/
opaque freePfxQuery : FrameHead

/-- `q`, or a neighbour of it where `q` is `p`: every head but `p` is the answer for some `q`, and `p` for none, so
that a free head keeps the one limit the spec puts on the two prefixes, that they differ (R5, D1). -/
def distinctFrom (p q : FrameHead) : FrameHead := if q = p then { q with h6 := q.h6 + 1 } else q

/-- FREE VALUE (log 4): `TICK_PERIOD` of the machine at reset (N14). -/
opaque freeTickPeriod : Nat

/-- FREE VALUE (log 10): the value of a `RESULT` that a session would give if it waited with `CMDR` = 0, which no
rule states; the argument is the number of outputs emitted so far, so that each occurrence is a fresh value. -/
opaque freeResult : Nat → Value

/-- The parameters of the machine at reset: capacities and switch as `95_test_vectors.md` sets them ("Unless a vector
says otherwise"), DESIGN CHOICE log 3; prefixes and tick period free, log 4. -/
def atReset : Config where
  pfxStore := freePfxStore
  pfxQuery := distinctFrom freePfxStore freePfxQuery
  tickPeriod := freeTickPeriod
  bufChunks := 8
  bufPayloadMax := 241
  txDataMax := 256
  dropBadCsum := false

end Config

end Sys2Proof
end

