-- ==== Sys2Proof/Machine/Arith.lean ====
section
/-! DEFINITION. The arithmetic units of `40_functions.md` (R90 to R97) and the byte-order helpers. All are pure: they
read their arguments and write no state. -/

namespace Sys2Proof.Machine

/-- The 4 bytes of a field in transmission order (R41, R42). -/
def quadBytes (q : Quad) : List Byte := [q.b0, q.b1, q.b2, q.b3]

/-- The 7 bytes of a frame's head in transmission order (R60). -/
def headBytes (h : FrameHead) : List Byte := [h.h0, h.h1, h.h2, h.h3, h.h4, h.h5, h.h6]

/-- `s[a..b]`, both ends included, empty when `b < a` (R8). -/
def slice (s : List Byte) (a b : Nat) : List Byte := (s.drop a).take (b + 1 - a)

/-- The list without its last element, and that element; `none` on the empty list. -/
def splitLast : List Byte → Option (List Byte × Byte)
  | [] => none
  | b :: bs =>
    match splitLast bs with
    | none => some ([], b)
    | some (front, last) => some (b :: front, last)

/-- A 32-bit binary operand, most significant byte first (R68). -/
def be32 (q : Quad) : BitVec 32 := q.b0 ++ q.b1 ++ q.b2 ++ q.b3

/-- The 4 bytes of a 32-bit binary operand, most significant byte first (R68). -/
def be32Bytes (w : BitVec 32) : Quad :=
  ⟨w.extractLsb' 24 8, w.extractLsb' 16 8, w.extractLsb' 8 8, w.extractLsb' 0 8⟩

/-- A 16-bit binary operand, most significant byte first (R68). -/
def be16 (hi lo : Byte) : BitVec 16 := hi ++ lo

/-- One step of the checksum accumulator `SUM` (R90): `(SUM + b) & 0x7F`. -/
def sumByte (sum b : Byte) : Byte := (sum + b) &&& 0x7F

/-- The accumulator `SUM` after the bytes `p`, starting from 0 (R90). -/
def sum7 (p : List Byte) : Byte := p.foldl sumByte 0

/-- `checksum(p) = (0x80 - SUM) & 0x7F` (R90). -/
def checksum (p : List Byte) : Byte := (0x80 - sum7 p) &&& 0x7F

/-- `verify(f)` for a frame of at least 12 bytes (R91): the checksum of `f[7..L-2]` is `f[L-1]`. -/
def verify (f : List Byte) : Bool := checksum (slice f 7 (f.length - 2)) == f.getD (f.length - 1) 0

/-- `encodeScalar(n)`: four 7-bit slices, each padded with a zero top bit, most significant first (R92). -/
def encodeScalar (n : BitVec 28) : Quad :=
  ⟨(n.extractLsb' 21 7).setWidth 8, (n.extractLsb' 14 7).setWidth 8, (n.extractLsb' 7 7).setWidth 8,
    (n.extractLsb' 0 7).setWidth 8⟩

/-- Whether a byte is a digit, bit 7 clear (R8, R69). -/
def isDigit (b : Byte) : Bool := b < 0x80

/-- Whether all 4 bytes of a field are digits (R69). -/
def allDigits (q : Quad) : Bool := isDigit q.b0 && isDigit q.b1 && isDigit q.b2 && isDigit q.b3

/-- `decodeScalar(d)`: the concatenation of the four digits, `d0` highest (R93). The operations call it only on
digits (log 12). -/
def decodeScalar (q : Quad) : BitVec 28 :=
  q.b0.extractLsb' 0 7 ++ q.b1.extractLsb' 0 7 ++ q.b2.extractLsb' 0 7 ++ q.b3.extractLsb' 0 7

/-- A scalar result narrowed to 28 bits, or out of range outside `lo` to 2^28 - 1 (R95, R97). -/
def inRange28 (lo s : Int) : Option (BitVec 28) :=
  if s < lo ∨ 268435455 < s then none else some (BitVec.ofInt 28 s)

/-- `effectiveAddress(base, off)`: decode, add exactly, encode; `none` is out of range (R95). -/
def effectiveAddress (base : Quad) (off : BitVec 32) : Option Quad :=
  (inRange28 0 ((decodeScalar base).toNat + off.toInt)).map encodeScalar

/-- `span(first, last)`: `decode(last) - decode(first) + 1`, exact; `none` is out of range (R97). -/
def span (first last : Quad) : Option (BitVec 28) :=
  inRange28 1 ((decodeScalar last).toNat - (decodeScalar first).toNat + 1)

/-- `targetChunks(L) = (L div 241) + 1` (R96). -/
def targetChunks (len : BitVec 28) : BitVec 21 := BitVec.ofNat 21 (len.toNat / Config.chunkMax + 1)

/-- A whole frame: `prefix ++ payload ++ [checksum(payload)]` (R60). -/
def frameBytes (head : FrameHead) (payload : List Byte) : List Byte :=
  headBytes head ++ payload ++ [checksum payload]

end Sys2Proof.Machine
end

