-- ==== Sys2Proof/Machine/Operands.lean ====
section
/-! DEFINITION. The operand checks of R69, each one question about the operands of a command. -/

namespace Sys2Proof.Machine

/-- The data of a store frame is at most `TX_DATA_MAX` bytes (R61, R69). -/
def storeDataFits (c : Config) (data : List Byte) : Bool := data.length ≤ c.txDataMax

/-- `len` is below 2^28 (R69). -/
def lenLegal (len : BitVec 32) : Bool := len < 0x10000000

/-- The address a `QUERY_BYTE` reads, where its operands are legal: four digits and a sum in range (R69, R95). -/
def byteAddress (base : Quad) (off : BitVec 32) : Option Quad :=
  if allDigits base then effectiveAddress base off else none

/-- The number of bytes a `QUERY_RANGE` reads, where its operands are legal: digits and a span in range (R69, R97). -/
def rangeSpan (first last : Quad) : Option (BitVec 28) :=
  if allDigits first && allDigits last then span first last else none

end Sys2Proof.Machine
end

