-- ==== Sys2Proof/Syntax.lean ====
section
/-! DEFINITION. The operations of the block: one constructor of `Instr` for each row of `spec/opcode_table.json`
(R7, R68, R70, R61 to R63), and the events its ports deliver (R6). -/

namespace Sys2Proof

/-- The kind the port gives an inbound message (R66). -/
inductive MsgKind where
  | sysex
  | other
  deriving DecidableEq, Repr

/-- One operation of the block: five host commands, three further event kinds, three wire frames. -/
inductive Instr where
  /-- `SEND_STORE addr, data` (R112). -/
  | sendStore (addr : Quad) (data : List Byte)
  /-- `QUERY_BYTES addr, len`, `len` unsigned (R113). -/
  | queryBytes (addr : Quad) (len : BitVec 32)
  /-- `QUERY_BYTE base, off`, `off` two's complement (R114). -/
  | queryByte (base : Quad) (off : BitVec 32)
  /-- `QUERY_RANGE first, last` (R115). -/
  | queryRange (first : Quad) (last : Quad)
  /-- `QUERY_BULK addr, size, delay`, `delay` in ticks (R116). -/
  | queryBulk (addr : Quad) (size : Quad) (delay : BitVec 16)
  /-- `RX_MSG(kind, f)`: one inbound message (R140). -/
  | rxMsg (kind : MsgKind) (msg : List Byte)
  /-- `TICK`: one time unit (R148 to R150). -/
  | tick
  /-- `RESET` (R200). -/
  | reset
  /-- The store frame, outbound (R61); its prefix is `PFX_STORE` and its checksum follows from the rest. -/
  | frameStore (addr : Quad) (data : List Byte)
  /-- The query frame, outbound (R62); its prefix is `PFX_QUERY` and its checksum follows from the rest. -/
  | frameQuery (addr : Quad) (length : Quad)
  /-- The inbound chunk (R63), with any prefix (R64) and any checksum byte (R72). -/
  | frameChunk (head : FrameHead) (addr : Quad) (data : List Byte) (csum : Byte)
  deriving DecidableEq, Repr

/-- What the ports deliver (R6): a command as the byte sequence on the command port (R68), a whole message with its
kind on the receive port (R65, R66), a time unit, or the reset input. -/
inductive PortEvent where
  | command (bytes : List Byte)
  | message (kind : MsgKind) (bytes : List Byte)
  | tick
  | reset
  deriving DecidableEq, Repr

/-- How an operation is written as bytes: as an event in the trace form of R70, or as a frame on the wire in one of
the two directions (R60). -/
inductive Channel where
  | trace
  | outbound
  | inbound
  deriving DecidableEq, Repr

end Sys2Proof
end

