-- ==== Sys2Proof/WellFormed.lean ====
section
/-! DEFINITION. Which operations are legal (R69, R61): the checks a command passes to be accepted, and the size of a
store frame. The block itself refuses an ill-formed command (R118); nothing here is assumed of one. -/

namespace Sys2Proof

open Machine

/-- The legality of an operation under the parameters `c` (R69; R61 for the store frame). -/
def Instr.wellFormed (c : Config) : Instr → Bool
  | .sendStore _ data => storeDataFits c data
  | .queryBytes _ len => lenLegal len
  | .queryByte base off => (byteAddress base off).isSome
  | .queryRange first last => (rangeSpan first last).isSome
  | .queryBulk _ _ _ => true
  | .rxMsg _ _ => true
  | .tick => true
  | .reset => true
  | .frameStore _ data => storeDataFits c data
  | .frameQuery _ _ => true
  | .frameChunk _ _ _ _ => true

/-- The operations that arrive on the command port (R6, R68): these the block holds outside `IDLE` (R110). -/
def Instr.isCommand : Instr → Bool
  | .sendStore _ _ => true
  | .queryBytes _ _ => true
  | .queryByte _ _ => true
  | .queryRange _ _ => true
  | .queryBulk _ _ _ => true
  | .rxMsg _ _ => false
  | .tick => false
  | .reset => false
  | .frameStore _ _ => false
  | .frameQuery _ _ => false
  | .frameChunk _ _ _ _ => false

/-- How each row is written as bytes: the eight event kinds as trace events, the frames on the wire (R70, R60). -/
def Instr.channel : Instr → Channel
  | .sendStore _ _ => .trace
  | .queryBytes _ _ => .trace
  | .queryByte _ _ => .trace
  | .queryRange _ _ => .trace
  | .queryBulk _ _ _ => .trace
  | .rxMsg _ _ => .trace
  | .tick => .trace
  | .reset => .trace
  | .frameStore _ _ => .outbound
  | .frameQuery _ _ => .outbound
  | .frameChunk _ _ _ _ => .inbound

end Sys2Proof
end

