-- ==== Sys2Proof/Decode.lean ====
section
/-! DEFINITION. Decoding and encoding. The decoder is total on any bytes and rejects by name; the encoder follows it,
from the same tables (R61 to R63, R68, R70). -/

namespace Sys2Proof

open Machine

/-- Why bytes are no operation (R72). -/
inductive DecodeError where
  /-- The empty command. -/
  | emptyCommand
  /-- A command code other than 0x01 to 0x05. -/
  | unknownCode (code : Byte)
  /-- A command whose total length is not the one R68 gives its code. -/
  | wrongLength (code : Byte)
  /-- A frame shorter than the 12 bytes of prefix, address and checksum. -/
  | frameTooShort
  /-- An outbound frame whose last byte is not the checksum of its payload. -/
  | frameChecksum
  /-- An outbound frame whose first 7 bytes are neither `PFX_STORE` nor `PFX_QUERY`. -/
  | frameHead
  /-- An outbound frame of a length that R61 or R62 does not give its kind. -/
  | frameLength
  deriving DecidableEq, Repr

/-- A command's bytes as an operation, by the table of R68. -/
def decodeCommand : List Byte → Except DecodeError Instr
  | [] => .error .emptyCommand
  | code :: operands =>
    if code = 0x01 then
      match operands with
      | a0 :: a1 :: a2 :: a3 :: data => .ok (.sendStore ⟨a0, a1, a2, a3⟩ data)
      | _ => .error (.wrongLength code)
    else if code = 0x02 then
      match operands with
      | [a0, a1, a2, a3, l0, l1, l2, l3] => .ok (.queryBytes ⟨a0, a1, a2, a3⟩ (be32 ⟨l0, l1, l2, l3⟩))
      | _ => .error (.wrongLength code)
    else if code = 0x03 then
      match operands with
      | [a0, a1, a2, a3, o0, o1, o2, o3] => .ok (.queryByte ⟨a0, a1, a2, a3⟩ (be32 ⟨o0, o1, o2, o3⟩))
      | _ => .error (.wrongLength code)
    else if code = 0x04 then
      match operands with
      | [a0, a1, a2, a3, b0, b1, b2, b3] => .ok (.queryRange ⟨a0, a1, a2, a3⟩ ⟨b0, b1, b2, b3⟩)
      | _ => .error (.wrongLength code)
    else if code = 0x05 then
      match operands with
      | [a0, a1, a2, a3, s0, s1, s2, s3, d0, d1] =>
        .ok (.queryBulk ⟨a0, a1, a2, a3⟩ ⟨s0, s1, s2, s3⟩ (be16 d0 d1))
      | _ => .error (.wrongLength code)
    else .error (.unknownCode code)

/-- The operation a port event is; only a command can fail to be one (R72). -/
def decodeEvent : PortEvent → Except DecodeError Instr
  | .command bytes => decodeCommand bytes
  | .message kind bytes => .ok (.rxMsg kind bytes)
  | .tick => .ok .tick
  | .reset => .ok .reset

/-- The event that trace bytes stand for (R70): 0x10 with a kind byte and the message, 0x11, 0x1F; anything else is
what the host put on the command port (log 9). -/
def eventOfTrace (bytes : List Byte) : PortEvent :=
  match bytes with
  | [] => .command []
  | code :: rest =>
    if code = 0x11 ∧ rest = [] then .tick
    else if code = 0x1F ∧ rest = [] then .reset
    else if code = 0x10 then
      match rest with
      | [] => .command bytes
      | kind :: msg =>
        if kind = 1 then .message .sysex msg
        else if kind = 0 then .message .other msg
        else .command bytes
    else .command bytes

/-- An outbound frame as an operation (R60 to R62): checksum, then prefix, then the length its kind allows. -/
def decodeOutbound (c : Config) : List Byte → Except DecodeError Instr
  | h0 :: h1 :: h2 :: h3 :: h4 :: h5 :: h6 :: a0 :: a1 :: a2 :: a3 :: rest =>
    match splitLast rest with
    | none => .error .frameTooShort
    | some (body, csum) =>
      let head : FrameHead := ⟨h0, h1, h2, h3, h4, h5, h6⟩
      let addr : Quad := ⟨a0, a1, a2, a3⟩
      if checksum (quadBytes addr ++ body) ≠ csum then .error .frameChecksum
      else if head = c.pfxStore then
        if storeDataFits c body then .ok (.frameStore addr body) else .error .frameLength
      else if head = c.pfxQuery then
        match body with
        | [l0, l1, l2, l3] => .ok (.frameQuery addr ⟨l0, l1, l2, l3⟩)
        | _ => .error .frameLength
      else .error .frameHead
  | _ => .error .frameTooShort

/-- An inbound frame as an operation (R63): any prefix, any checksum byte, at least 12 bytes. -/
def decodeInbound : List Byte → Except DecodeError Instr
  | h0 :: h1 :: h2 :: h3 :: h4 :: h5 :: h6 :: a0 :: a1 :: a2 :: a3 :: rest =>
    match splitLast rest with
    | none => .error .frameTooShort
    | some (data, csum) => .ok (.frameChunk ⟨h0, h1, h2, h3, h4, h5, h6⟩ ⟨a0, a1, a2, a3⟩ data csum)
  | _ => .error .frameTooShort

/-- The decoder: the operation that bytes on a channel are. -/
def decode (c : Config) (channel : Channel) (bytes : List Byte) : Except DecodeError Instr :=
  match channel with
  | .trace => decodeEvent (eventOfTrace bytes)
  | .outbound => decodeOutbound c bytes
  | .inbound => decodeInbound bytes

/-- The kind bit of the trace form of `RX_MSG` (R70). -/
def kindByte : MsgKind → Byte
  | .sysex => 1
  | .other => 0

/-- The bytes of an operation: R68 for the commands, R70 for the other events, R61 to R63 for the frames. -/
def encode (c : Config) : Instr → List Byte
  | .sendStore addr data => 0x01 :: quadBytes addr ++ data
  | .queryBytes addr len => 0x02 :: quadBytes addr ++ quadBytes (be32Bytes len)
  | .queryByte base off => 0x03 :: quadBytes base ++ quadBytes (be32Bytes off)
  | .queryRange first last => 0x04 :: quadBytes first ++ quadBytes last
  | .queryBulk addr size delay =>
    0x05 :: quadBytes addr ++ quadBytes size ++ [delay.extractLsb' 8 8, delay.extractLsb' 0 8]
  | .rxMsg kind msg => 0x10 :: kindByte kind :: msg
  | .tick => [0x11]
  | .reset => [0x1F]
  | .frameStore addr data => frameBytes c.pfxStore (quadBytes addr ++ data)
  | .frameQuery addr length => frameBytes c.pfxQuery (quadBytes addr ++ quadBytes length)
  | .frameChunk head addr data csum => headBytes head ++ quadBytes addr ++ data ++ [csum]

/-- The fewest bytes of the operation with this trace code: the fixed part of its row (R68, R70). -/
def leastLength (code : Byte) : Nat :=
  if code = 0x01 then 5
  else if code = 0x02 then 9
  else if code = 0x03 then 9
  else if code = 0x04 then 9
  else if code = 0x05 then 11
  else if code = 0x10 then 2
  else 1

/-- The bytes of a table word: bit 0 is the least significant bit of byte 0, and what the row's `nbits` bits do not
give of the operation's fixed part is 0. -/
def tableBytes (nbits w : Nat) : List Byte :=
  let bits := w % 2 ^ nbits
  (List.range (max ((nbits + 7) / 8) (leastLength (BitVec.ofNat 8 bits)))).map
    fun i => BitVec.ofNat 8 (bits >>> (8 * i))

/-- The operation the decoder reads from a word numbered as `spec/opcode_table.json` numbers it. -/
def decodeTableWord (nbits w : Nat) : Option Instr :=
  (decodeEvent (eventOfTrace (tableBytes nbits w))).toOption

end Sys2Proof
end

