-- ==== Sys2Proof/Machine/State.lean ====
section
/-! DEFINITION. The whole state of the block (R10 to R17, R21), its outputs (R71), and the reasons a step could stop. -/

namespace Sys2Proof.Machine

/-- `FSM`, the sequencing state (R11). -/
inductive Fsm where
  /-- `IDLE` = 0: no query waits, commands are accepted. -/
  | idle
  /-- `WAIT_COUNT` = 1: a counted query waits for `TGT` chunks or the timeout. -/
  | waitCount
  /-- `WAIT_DELAY` = 2: an unbounded bulk query waits for its delay. -/
  | waitDelay
  deriving DecidableEq, Repr

/-- `CMDR`, the kind of the outstanding or last query (R12); its codes are `cmdrCode`. -/
inductive QueryKind where
  /-- 0, the value after reset. -/
  | none
  | queryBytes
  | queryByte
  | queryRange
  | queryBulk
  deriving DecidableEq, Repr

/-- One entry of the chunk buffer (R16). -/
structure Entry where
  /-- The echoed start address, as received. -/
  addr : Quad
  /-- The chunk data. -/
  data : List Byte
  /-- Whether the frame's checksum verified. -/
  ok : Bool
  deriving DecidableEq, Repr

/-- The stored bits of `STATUS` (R17). Bit 0 `BUSY` is not stored; `State.statusByte` gives the whole register. -/
structure Status where
  /-- Bit 1 `DONE`: the last query ended without timeout. -/
  done : Bool
  /-- Bit 2 `TO`: the last query timed out. -/
  timeout : Bool
  /-- Bit 3 `FRM`: a message of unexpected kind seen since the session reset. -/
  frm : Bool
  /-- Bit 4 `RUNT`: a runt frame seen since the session reset. -/
  runt : Bool
  /-- Bit 5 `OVF`: a chunk lost since the session reset. -/
  ovf : Bool
  /-- Bit 6 `CSE`: a checksum mismatch seen since the session reset. -/
  cse : Bool
  /-- Bit 7 `ARG`: the last command was refused. -/
  arg : Bool
  deriving DecidableEq, Repr

/-- The `status` of a `RESULT` (R71): 0 `OK`, 1 `TIMEOUT`, 2 `REFUSED`. -/
inductive ResultStatus where
  | ok
  | timeout
  | refused
  deriving DecidableEq, Repr

/-- The error kinds that are raised (R170), each named by its report. AddressSpanError and ParseError have no code and
are raised by nothing (R174, R178). -/
inductive ErrorKind where
  /-- FramingError (kind), report 1. -/
  | framingKind
  /-- FramingError (runt), report 2. -/
  | framingRunt
  /-- TimeoutError, report 3. -/
  | timeout
  /-- OverflowError, report 4. -/
  | overflow
  /-- ChecksumError, report 5. -/
  | checksum
  /-- ArgumentError, report 6. -/
  | argument
  deriving DecidableEq, Repr

/-- The outputs of a step (R71). -/
inductive Output where
  /-- One frame handed to the port's `send`. -/
  | tx (frame : List Byte)
  /-- What a command returns to its caller. -/
  | result (status : ResultStatus) (value : Value)
  /-- A reported condition. -/
  | report (code : ErrorKind)
  deriving DecidableEq, Repr

/-- The block: its parameters, the registers of R10, and the two lists that stand for the step's input and output
(R6; log 1, log 2). -/
structure State where
  /-- The constants of R5, which no event changes (R18). -/
  cfg : Config
  /-- `FSM` (R11). -/
  fsm : Fsm
  /-- `CMDR` (R12). -/
  cmdr : QueryKind
  /-- `TGT`, the target chunk count (R13). -/
  tgt : BitVec 21
  /-- `TGT_EN` (R13). -/
  tgtEn : Bool
  /-- `CNT`, the chunk counter (R14). -/
  cnt : BitVec 21
  /-- `TMR`, the countdown timer, in ticks (R15). -/
  tmr : BitVec 16
  /-- `BUF`, the chunk buffer, oldest entry first (R16). -/
  buf : List Entry
  /-- `STATUS` bits 1 to 7 (R17). -/
  status : Status
  /-- MODEL FIELD (log 1): the events at the ports, in the order the arbiter takes them. -/
  inbox : List PortEvent
  /-- MODEL FIELD (log 2): the outputs emitted so far, oldest first. -/
  out : List Output
  deriving DecidableEq, Repr

/-- Why a step could stop with a fault: never. "No state of the block is a fault state" (R9). -/
inductive Fault
  deriving DecidableEq, Repr

/-- Why a step could be refused. -/
inductive Refusal where
  /-- Raised by `exec`'s arm of an operation that has no meaning yet; no arm raises it. Safe: the machine stops. -/
  | notModelled (mnemonic : String)
  deriving DecidableEq, Repr

/-- All flags 0 (R21). -/
def Status.clear : Status := ⟨false, false, false, false, false, false, false⟩

/-- The state after `RESET` of a block with parameters `c` (R21, R200), nothing at its ports. -/
def State.resetWith (c : Config) : State where
  cfg := c
  fsm := .idle
  cmdr := .none
  tgt := 0
  tgtEn := false
  cnt := 0
  tmr := 0
  buf := []
  status := Status.clear
  inbox := []
  out := []

/-- The machine right after reset (R21); its parameters are `Config.atReset` (log 3, log 4). -/
def State.reset : State := State.resetWith Config.atReset

end Sys2Proof.Machine
end

