-- ==== Sys2Proof/Machine/Flags.lean ====
section
/-! DEFINITION. The `STATUS` register as the host sees it (R17), the numeric codes of R11, R12 and R71, and the flag each
error sets (R170). -/

namespace Sys2Proof.Machine

/-- Bit 0 of `STATUS`, `BUSY`: `FSM` is not `IDLE` (R17). -/
def State.busy (s : State) : Bool := s.fsm != .idle

/-- `STATUS`, the 8 output wires (R17): bit 7 `ARG` down to bit 0 `BUSY`. -/
def State.statusByte (s : State) : Byte :=
  BitVec.ofBool s.status.arg ++ BitVec.ofBool s.status.cse ++ BitVec.ofBool s.status.ovf
    ++ BitVec.ofBool s.status.runt ++ BitVec.ofBool s.status.frm ++ BitVec.ofBool s.status.timeout
    ++ BitVec.ofBool s.status.done ++ BitVec.ofBool s.busy

/-- The value of `FSM` (R11). -/
def fsmCode : Fsm → BitVec 2
  | .idle => 0
  | .waitCount => 1
  | .waitDelay => 2

/-- The value of `CMDR` (R12): the command code of the query. -/
def cmdrCode : QueryKind → BitVec 3
  | .none => 0
  | .queryBytes => 2
  | .queryByte => 3
  | .queryRange => 4
  | .queryBulk => 5

/-- The code of a `RESULT` status (R71). -/
def resultCode : ResultStatus → Nat
  | .ok => 0
  | .timeout => 1
  | .refused => 2

/-- The code of a `REPORT` (R71, R170). -/
def reportCode : ErrorKind → Nat
  | .framingKind => 1
  | .framingRunt => 2
  | .timeout => 3
  | .overflow => 4
  | .checksum => 5
  | .argument => 6

/-- The flag an error sets (R170). -/
def setErrorFlag : ErrorKind → Status → Status
  | .framingKind, f => { f with frm := true }
  | .framingRunt, f => { f with runt := true }
  | .timeout, f => { f with timeout := true }
  | .overflow, f => { f with ovf := true }
  | .checksum, f => { f with cse := true }
  | .argument, f => { f with arg := true }

/-- What a session reset does to the flags (R111): the six of the last session are cleared, `ARG` stays. -/
def clearSessionFlags (f : Status) : Status := { Status.clear with arg := f.arg }

end Sys2Proof.Machine
end

