-- ==== Sys2Proof/Machine/Ops.lean ====
section
/-! DEFINITION. The operations the meanings share: the chunk buffer, outputs, raising an error, the session reset, the
end of a session with its result, refusal, holding a command, and taking the next event from the ports. -/

namespace Sys2Proof.Machine

/-! ### The chunk buffer, which stands where a processor has memory (R7, R16, R43) -/

/-- The form of a chunk buffer under the parameters `c` (R16): at most `BUF_CHUNKS` entries, each with at most
`BUF_PAYLOAD_MAX` data bytes. -/
def Memory.wf (c : Config) (buf : List Entry) : Bool :=
  buf.length ≤ c.bufChunks && buf.all fun e => e.data.length ≤ c.bufPayloadMax

/-- `BufClear()` (R8). -/
def bufClear (s : State) : State := { s with buf := [] }

/-- `BufAppend(e)`: after every earlier entry (R8, R146). -/
def bufAppend (e : Entry) (s : State) : State := { s with buf := s.buf ++ [e] }

/-- `BufLen()` (R8). -/
def bufLen (s : State) : Nat := s.buf.length

/-- `concat(BUF)`: the chunk data of every entry, in arrival order (R98). -/
def concatData (buf : List Entry) : List Byte := buf.flatMap Entry.data

/-- `pairs(BUF)`: the address and data of every entry, in arrival order (R98). -/
def pairData (buf : List Entry) : List (Quad × List Byte) := buf.map fun e => (e.addr, e.data)

/-! ### Outputs -/

/-- `emit o` (R8): the output leaves after those before it (R49). -/
def emit (o : Output) (s : State) : State := { s with out := s.out ++ [o] }

/-- Hand a whole frame to the port's `send` (R54, R60). -/
def sendFrame (head : FrameHead) (payload : List Byte) (s : State) : State :=
  emit (.tx (frameBytes head payload)) s

/-! ### Raising an error (R170, R182): a flag and a report; nothing is saved and control goes nowhere -/

/-- `raise e` (R8, R170): set the error's flag and emit its report. What happens next is the raising rule's. -/
def raise (e : ErrorKind) (s : State) : State :=
  emit (.report e) { s with status := setErrorFlag e s.status }

/-- A refused command (R118): ArgumentError, then `RESULT(REFUSED, absent)`; nothing else changes. -/
def refuse (s : State) : State := emit (.result .refused .absent) (raise .argument s)

/-! ### Sessions -/

/-- `SessionReset()` (R111). -/
def sessionReset (s : State) : State :=
  { bufClear s with cnt := 0, status := clearSessionFlags s.status }

/-- What every accepted query does before it waits (R113 to R116): session reset, target, kind, the query frame, `ARG`
cleared. `target` is `none` for a query without a chunk-count target. -/
def openSession (kind : QueryKind) (target : Option (BitVec 21)) (payload : List Byte) (s : State) : State :=
  let s := sessionReset s
  let s := { s with tgt := target.getD 0, tgtEn := target.isSome, cmdr := kind }
  let s := sendFrame s.cfg.pfxQuery payload s
  { s with status := { s.status with arg := false } }

/-- An accepted counted query (R113, R114, R115): the session opened, then `TMR <- TIMEOUT_TICKS`, `FSM <- WAIT_COUNT`. -/
def openCounted (kind : QueryKind) (target : BitVec 21) (payload : List Byte) (s : State) : State :=
  { openSession kind (some target) payload s with tmr := Config.timeoutTicks, fsm := .waitCount }

/-- The value of a query's result, by `CMDR`, from the buffer as it is (R117). -/
def resultValue (s : State) : Value :=
  match s.cmdr with
  | .none => Config.freeResult s.out.length
  | .queryBytes => .bytes (concatData s.buf)
  | .queryByte => .optByte (concatData s.buf).head?
  | .queryRange => .pairs (pairData s.buf)
  | .queryBulk => .pairs (pairData s.buf)

/-- A session that ends well (R147, R149): `DONE`, one `RESULT(OK, value)`, `FSM <- IDLE`. -/
def endSessionOk (s : State) : State :=
  let s := { s with status := { s.status with done := true } }
  { emit (.result .ok (resultValue s)) s with fsm := .idle }

/-- A session that times out (R148): TimeoutError, one `RESULT(TIMEOUT, value)`, `FSM <- IDLE`. -/
def endSessionTimeout (s : State) : State :=
  let s := raise .timeout s
  { emit (.result .timeout (resultValue s)) s with fsm := .idle }

/-! ### Accepting, holding and refusing a command -/

/-- A command that needs `IDLE` (R110): in a waiting state it is held and has no effect (log 6). -/
def whenIdle (s accepted : State) : State := if s.fsm = .idle then accepted else s

/-! ### The ingestion step (R140), from the point where a frame's fields are known -/

/-- `BufAppend`, `CNT <- CNT + 1` and the completion test (R146, R147). -/
def appendAndTest (e : Entry) (s : State) : State :=
  let s := bufAppend e s
  let s := { s with cnt := s.cnt + 1 }
  if s.fsm = .waitCount ∧ s.tgtEn = true ∧ s.cnt = s.tgt then endSessionOk s else s

/-- The ingestion step from "if ok == 0" on (R140, R144 to R147), for the fields `e` of a frame; `tooLong` says that
its chunk data is longer than `BUF_PAYLOAD_MAX`. The order of the checks is R181's. -/
def ingestFields (e : Entry) (tooLong : Bool) (s : State) : State :=
  let s := if e.ok then s else raise .checksum s
  if !e.ok && s.cfg.dropBadCsum then s
  else if bufLen s = s.cfg.bufChunks ∨ tooLong = true then raise .overflow s
  else appendAndTest e s

/-- The fields of a frame of at least 12 bytes (R143, R144): the echoed address `f[7..10]`, the chunk data
`f[11..L-2]`, and whether its checksum verifies. -/
def frameFields (f : List Byte) : Entry where
  addr := ⟨f.getD 7 0, f.getD 8 0, f.getD 9 0, f.getD 10 0⟩
  data := slice f 11 (f.length - 2)
  ok := verify f

/-- The whole ingestion step (R140): kind, length, then the fields. -/
def ingest (kind : MsgKind) (f : List Byte) (s : State) : State :=
  match kind with
  | .other => raise .framingKind s
  | .sysex =>
    if f.length < 12 then raise .framingRunt s
    else ingestFields (frameFields f) (s.cfg.bufPayloadMax < (frameFields f).data.length) s

/-! ### Taking the next event from the ports (R6, R49, R110, R180) -/

/-- Whether an event comes from the command port. -/
def isCommandEvent : PortEvent → Bool
  | .command _ => true
  | .message _ _ => false
  | .tick => false
  | .reset => false

/-- The next event and what stays at the ports: in `IDLE` the first event; in a waiting state the first that is no
command, the held commands before it staying as they are (R110). -/
def takeEvent (fsm : Fsm) : List PortEvent → Option (PortEvent × List PortEvent)
  | [] => none
  | e :: es =>
    if fsm ≠ .idle ∧ isCommandEvent e = true then
      match takeEvent fsm es with
      | none => none
      | some (next, rest) => some (next, e :: rest)
    else some (e, es)

end Sys2Proof.Machine
end

