-- ==== Sys2Proof/Machine/Commands.lean ====
section
/-! DEFINITION. The five host commands (R112 to R116). Each is taken in `IDLE` only and held otherwise (R110); each
refuses illegal operands (R69, R118). -/

namespace Sys2Proof.Machine

/-- `SEND_STORE addr, data` (R112): one store frame, `ARG` cleared, no session. -/
def execSendStore (addr : Quad) (data : List Byte) (s : State) : Host.Outcome State Fault Refusal :=
  .next <| whenIdle s <|
    if storeDataFits s.cfg data then
      let s := sendFrame s.cfg.pfxStore (quadBytes addr ++ data) s
      { s with status := { s.status with arg := false } }
    else refuse s

/-- `QUERY_BYTES addr, len` (R113). -/
def execQueryBytes (addr : Quad) (len : BitVec 32) (s : State) : Host.Outcome State Fault Refusal :=
  .next <| whenIdle s <|
    if lenLegal len then
      openCounted .queryBytes (targetChunks (len.setWidth 28))
        (quadBytes addr ++ quadBytes (encodeScalar (len.setWidth 28))) s
    else refuse s

/-- `QUERY_BYTE base, off` (R114). -/
def execQueryByte (base : Quad) (off : BitVec 32) (s : State) : Host.Outcome State Fault Refusal :=
  .next <| whenIdle s <|
    match byteAddress base off with
    | some e => openCounted .queryByte (targetChunks 1) (quadBytes e ++ quadBytes (encodeScalar 1)) s
    | none => refuse s

/-- `QUERY_RANGE first, last` (R115). -/
def execQueryRange (first last : Quad) (s : State) : Host.Outcome State Fault Refusal :=
  .next <| whenIdle s <|
    match rangeSpan first last with
    | some n => openCounted .queryRange (targetChunks n) (quadBytes first ++ quadBytes (encodeScalar n)) s
    | none => refuse s

/-- `QUERY_BULK addr, size, delay` (R116): no target; a delay of 0 ends at once with the empty result. -/
def execQueryBulk (addr size : Quad) (delay : BitVec 16) (s : State) : Host.Outcome State Fault Refusal :=
  .next <| whenIdle s <|
    let s := openSession .queryBulk none (quadBytes addr ++ quadBytes size) s
    if delay = 0 then { endSessionOk s with tmr := 0 } else { s with tmr := delay, fsm := .waitDelay }

end Sys2Proof.Machine
end

