-- ==== Sys2Proof/Machine/Events.lean ====
section
/-! DEFINITION. The three operations the host does not issue: `RX_MSG` (R140), `TICK` (R148 to R150), `RESET` (R200). -/

namespace Sys2Proof.Machine

/-- `RX_MSG(kind, f)` (R140 to R147), the same in every `FSM` state. -/
def execRxMsg (kind : MsgKind) (f : List Byte) (s : State) : Host.Outcome State Fault Refusal :=
  .next (ingest kind f s)

/-- `TMR <- TMR - 1` (R148, R149). -/
def countDown (s : State) : State := { s with tmr := s.tmr - 1 }

/-- `TICK`: nothing in `IDLE` (R150); one tick of the timeout in `WAIT_COUNT` (R148), of the delay in `WAIT_DELAY`
(R149). -/
def execTick (s : State) : Host.Outcome State Fault Refusal :=
  .next <|
    match s.fsm with
    | .idle => s
    | .waitCount => if s.tmr - 1 = 0 then endSessionTimeout (countDown s) else countDown s
    | .waitDelay => if s.tmr - 1 = 0 then endSessionOk (countDown s) else countDown s

/-- `RESET` (R200): every register to its reset value, in any state, with no output. The parameters keep their values,
and the ports and the outputs already emitted are the environment's (R201). -/
def execReset (s : State) : Host.Outcome State Fault Refusal :=
  .next { State.resetWith s.cfg with inbox := s.inbox, out := s.out }

end Sys2Proof.Machine
end

