-- ==== Sys2Proof/Machine/Frames.lean ====
section
/-! DEFINITION. The three wire frames of the opcode table (R60 to R64). An outbound frame is built and handed whole to
the port's `send` (R54); an inbound one is received and ingested (R63, R140). -/

namespace Sys2Proof.Machine

/-- `FRAME_STORE` (R61): the frame leaves; no register is written. Frames are built in `IDLE` only (R151), and data
that no store frame carries is refused (R118); log 7. -/
def execFrameStore (addr : Quad) (data : List Byte) (s : State) : Host.Outcome State Fault Refusal :=
  .next <| whenIdle s <|
    if storeDataFits s.cfg data then sendFrame s.cfg.pfxStore (quadBytes addr ++ data) s else refuse s

/-- `FRAME_QUERY` (R62): the frame leaves; no register is written. Frames are built in `IDLE` only (R151); log 7. -/
def execFrameQuery (addr length : Quad) (s : State) : Host.Outcome State Fault Refusal :=
  .next <| whenIdle s <| sendFrame s.cfg.pfxQuery (quadBytes addr ++ quadBytes length) s

/-- `FRAME_CHUNK` (R63): one received frame of kind sysex with these bytes (log 8). -/
def execFrameChunk (head : FrameHead) (addr : Quad) (data : List Byte) (csum : Byte) (s : State) :
    Host.Outcome State Fault Refusal :=
  .next (ingest .sysex (headBytes head ++ quadBytes addr ++ data ++ [csum]) s)

end Sys2Proof.Machine
end

