-- ==== Sys2Proof/Machine/Dispatch.lean ====
section
/-! DEFINITION. One arm for each operation of `spec/opcode_table.json`. -/

namespace Sys2Proof.Machine

def exec (i : Instr) (s : State) : Host.Outcome State Fault Refusal :=
  match i with
  -- host commands
  | .sendStore addr data => Sys2Proof.Machine.execSendStore addr data s
  | .queryBytes addr len => Sys2Proof.Machine.execQueryBytes addr len s
  | .queryByte base off => Sys2Proof.Machine.execQueryByte base off s
  | .queryRange first last => Sys2Proof.Machine.execQueryRange first last s
  | .queryBulk addr size delay => Sys2Proof.Machine.execQueryBulk addr size delay s
  -- events of the receiver, the timer and the platform
  | .rxMsg kind msg => Sys2Proof.Machine.execRxMsg kind msg s
  | .tick => Sys2Proof.Machine.execTick s
  | .reset => Sys2Proof.Machine.execReset s
  -- wire frames
  | .frameStore addr data => Sys2Proof.Machine.execFrameStore addr data s
  | .frameQuery addr length => Sys2Proof.Machine.execFrameQuery addr length s
  | .frameChunk head addr data csum => Sys2Proof.Machine.execFrameChunk head addr data csum s

end Sys2Proof.Machine
end

