-- ==== Sys2Proof/Machine/Step.lean ====
section
/-! DEFINITION. One step of the block (R6, R9): take the next event from the ports, decode it, run it. -/

namespace Sys2Proof.Machine

/-- One step: the next event that is not held (R110) runs atomically; bytes on the command port that are no command
are refused as R118 says; with nothing to take the block stays as it is (log 5). -/
def step (s : State) : Host.Outcome State Fault Refusal :=
  match takeEvent s.fsm s.inbox with
  | none => .next s
  | some (event, rest) =>
    match decodeEvent event with
    | .ok i => exec i { s with inbox := rest }
    | .error _ => .next (refuse { s with inbox := rest })

/-- The state with the event of a table word first at its ports (log 1). -/
def State.withFetchWord (s : State) (nbits w : Nat) : State :=
  { s with inbox := eventOfTrace (tableBytes nbits w) :: s.inbox }

end Sys2Proof.Machine
end

