-- ==== Sys2Proof/Machine/Serial.lean ====
section
/-! DEFINITION. The byte-serial form of the parser (R152): a receiver that gets a message one byte at a time. It is
claimed equal to the atomic ingestion step; nothing reaches the block before the end of the message. -/

namespace Sys2Proof.Machine

/-- The receiver's scratch registers (R19, R152). They start afresh at every start of message. -/
structure RxScratch where
  /-- The kind the port gave at the start of the message. -/
  kind : MsgKind
  /-- `RXI`, the index of the next byte. -/
  rxi : Nat
  /-- `RSUM`, the 7-bit running sum from offset 7 on. -/
  rsum : Byte
  /-- `A[0..3]`, the echoed address. -/
  a : Quad
  /-- `E.data`, the entry under construction with its trailing byte; at most `BUF_PAYLOAD_MAX` + 1 bytes. -/
  data : List Byte
  /-- `LAST`, the most recent byte. -/
  last : Byte
  /-- Whether a byte came that the entry had no room for. -/
  full : Bool
  deriving DecidableEq, Repr

/-- On start of message (R152). -/
def rxStart (kind : MsgKind) : RxScratch := ⟨kind, 0, 0, ⟨0, 0, 0, 0⟩, [], 0, false⟩

/-- `A[RXI-7] <- b` for `RXI` from 7 to 10 (R152). -/
def rxAddress (rxi : Nat) (b : Byte) (a : Quad) : Quad :=
  if rxi = 7 then { a with b0 := b }
  else if rxi = 8 then { a with b1 := b }
  else if rxi = 9 then { a with b2 := b }
  else if rxi = 10 then { a with b3 := b }
  else a

/-- On byte `b` (R152); the bytes of a message that is not sysex are not read. An entry that already holds
`BUF_PAYLOAD_MAX` + 1 bytes stores no more. -/
def rxByte (c : Config) (x : RxScratch) (b : Byte) : RxScratch :=
  match x.kind with
  | .other => x
  | .sysex =>
    { x with
      a := rxAddress x.rxi b x.a
      data := if 11 ≤ x.rxi ∧ x.data.length ≤ c.bufPayloadMax then x.data ++ [b] else x.data
      full := x.full || decide (11 ≤ x.rxi ∧ c.bufPayloadMax < x.data.length)
      rsum := if 7 ≤ x.rxi then sumByte x.rsum b else x.rsum
      last := b
      rxi := x.rxi + 1 }

/-- On end of message (R152): the kind, the length, then the ingestion step from "if ok == 0" on. -/
def rxEnd (x : RxScratch) (s : State) : State :=
  match x.kind with
  | .other => raise .framingKind s
  | .sysex =>
    if x.rxi < 12 then raise .framingRunt s
    else ingestFields ⟨x.a, x.data.dropLast, x.rsum == 0 && x.last < 0x80⟩ x.full s

/-- A whole message through the byte-serial receiver. -/
def rxSerial (kind : MsgKind) (f : List Byte) (s : State) : State :=
  rxEnd (f.foldl (rxByte s.cfg) (rxStart kind)) s

end Sys2Proof.Machine
end

