-- ==== Sys2Proof/Safety.lean ====
section
/-! DEFINITION. What counts as a state the block can be in: the invariants of R14, R16, R17 and R151. -/

namespace Sys2Proof.Machine

/-- A counted query's kind (R13). -/
abbrev QueryKind.Counted (k : QueryKind) : Prop := k = .queryBytes ∨ k = .queryByte ∨ k = .queryRange

/-- The invariants of every reachable state. -/
structure State.Inv (s : State) : Prop where
  /-- The parameters are within R5's bounds. -/
  cfg_legal : s.cfg.Legal
  /-- The buffer keeps its form (R16). -/
  buf_wf : Memory.wf s.cfg s.buf = true
  /-- `CNT = BufLen()` (R14, R151). -/
  cnt_eq : s.cnt.toNat = s.buf.length
  /-- `TGT` is at least 1 when `TGT_EN` is 1 (R13). -/
  tgt_pos : s.tgtEn = true → 1 ≤ s.tgt.toNat
  /-- `DONE` and `TO` are never both 1 (R17). -/
  one_end : ¬ (s.status.done = true ∧ s.status.timeout = true)
  /-- `DONE` and `TO` are both 0 in a waiting state (R151). -/
  waiting_flags : s.fsm ≠ .idle → s.status.done = false ∧ s.status.timeout = false
  /-- In `WAIT_COUNT`: `TGT_EN` = 1, `CNT` below `TGT`, `TMR` from 1 to 5 (R151), a counted query's kind (R12). -/
  wait_count : s.fsm = .waitCount →
    s.tgtEn = true ∧ s.cnt.toNat < s.tgt.toNat ∧ 1 ≤ s.tmr.toNat ∧ s.tmr.toNat ≤ 5 ∧ s.cmdr.Counted
  /-- In `WAIT_DELAY`: `TGT_EN` = 0, `TMR` at least 1 (R151), the bulk query's kind (R12). -/
  wait_delay : s.fsm = .waitDelay → s.tgtEn = false ∧ 1 ≤ s.tmr.toNat ∧ s.cmdr = .queryBulk

/-- One step goes on: it answers a next state. Every step does (R9). -/
def Goes (s t : State) : Prop := step s = .next t

end Sys2Proof.Machine
end

