-- ==== Sys2Proof/Certificates/Slice0/Obligations.lean ====
section
/-! DEFINITION. The statements for the provers. `Sys2Proof.Spec` holds the few expected states and conditions, written
from the rules with plain record updates, that several statements share. -/

namespace Sys2Proof.Spec

open Machine

/-- A refused command's state (R118): `ARG` set, the report, the `REFUSED` result, nothing else. -/
def refused (s : State) : State :=
  { s with
    status := { s.status with arg := true }
    out := s.out ++ [.report .argument, .result .refused .absent] }

/-- A frame with this head and payload (R60). -/
def frame (head : FrameHead) (payload : List Byte) : List Byte := headBytes head ++ payload ++ [checksum payload]

/-- The state after an accepted counted query (R113 to R115): a fresh session waiting with target `target`. -/
def counted (kind : QueryKind) (target : Nat) (payload : List Byte) (s : State) : State :=
  { s with
    fsm := .waitCount
    cmdr := kind
    tgt := BitVec.ofNat 21 target
    tgtEn := true
    cnt := 0
    tmr := 5
    buf := []
    status := ⟨false, false, false, false, false, false, false⟩
    out := s.out ++ [.tx (frame s.cfg.pfxQuery payload)] }

/-- The value of a result (R117), by `CMDR`, from the buffer; no rule gives one for `CMDR` = 0. -/
def value : QueryKind → List Entry → Option Value
  | .none, _ => none
  | .queryBytes, buf => some (.bytes (buf.map Entry.data).flatten)
  | .queryByte, buf => some (.optByte (buf.map Entry.data).flatten.head?)
  | .queryRange, buf => some (.pairs (buf.map fun e => (e.addr, e.data)))
  | .queryBulk, buf => some (.pairs (buf.map fun e => (e.addr, e.data)))

/-- `v` is the value R117 gives for `CMDR` = `kind`, where it gives one. -/
def IsValue (kind : QueryKind) (buf : List Entry) (v : Value) : Prop := ∀ w, value kind buf = some w → v = w

/-- The chunk data of an inbound frame: `f[11..L-2]` (R63). -/
def chunkData (f : List Byte) : List Byte := (f.drop 11).dropLast

/-- The echoed address of an inbound frame: `f[7..10]` (R63). -/
def chunkAddr (f : List Byte) : Quad := ⟨f.getD 7 0, f.getD 8 0, f.getD 9 0, f.getD 10 0⟩

/-- A frame the buffer has room for, as far as one entry goes: at least 12 bytes (R142), at most `BUF_PAYLOAD_MAX`
bytes of chunk data (R145). -/
def Fits (c : Config) (f : List Byte) : Prop := 12 ≤ f.length ∧ f.length ≤ 12 + c.bufPayloadMax

/-- The last step of an append (R146), before the completion test: the chunk of `f` with its `ok` bit, counted, and
ChecksumError raised if the bit is 0 (R144). -/
def appended (f : List Byte) (s : State) : State :=
  { s with
    buf := s.buf ++ [⟨chunkAddr f, chunkData f, verify f⟩]
    cnt := s.cnt + 1
    status := { s.status with cse := s.status.cse || !verify f }
    out := s.out ++ (if verify f = true then [] else [.report .checksum]) }

/-- Whether the append completes the session (R147). -/
def Completes (s : State) : Prop := s.fsm = .waitCount ∧ s.tgtEn = true ∧ s.cnt + 1 = s.tgt

/-- A 4-byte field of a command at byte `k` (R68). -/
def fieldAt (b : List Byte) (k : Nat) : Quad := ⟨b.getD k 0, b.getD (k + 1) 0, b.getD (k + 2) 0, b.getD (k + 3) 0⟩

/-- The number that 4 digits write in base 128, most significant first (R41, R93). Irreducible, so that no unifier counts
up to it; unfold it by name. -/
@[irreducible] def weight (q : Quad) : Nat :=
  q.b0.toNat * 2097152 + q.b1.toNat * 16384 + q.b2.toNat * 128 + q.b3.toNat

/-- The 4 bytes are digits: bit 7 clear in each (R69). -/
def Digits (q : Quad) : Prop := q.b0.toNat < 128 ∧ q.b1.toNat < 128 ∧ q.b2.toNat < 128 ∧ q.b3.toNat < 128

/-- A legal command, by the table of R68 and the checks of R69. -/
def LegalCommand (c : Config) (b : List Byte) : Prop :=
  (b.head? = some 1 ∧ 5 ≤ b.length ∧ b.length ≤ 5 + c.txDataMax) ∨
  (b.head? = some 2 ∧ b.length = 9 ∧ (be32 (fieldAt b 5)).toNat ≤ 268435455) ∨
  (b.head? = some 3 ∧ b.length = 9 ∧ Digits (fieldAt b 1) ∧
    0 ≤ (weight (fieldAt b 1) : Int) + (be32 (fieldAt b 5)).toInt ∧
    (weight (fieldAt b 1) : Int) + (be32 (fieldAt b 5)).toInt ≤ 268435455) ∨
  (b.head? = some 4 ∧ b.length = 9 ∧ Digits (fieldAt b 1) ∧ Digits (fieldAt b 5) ∧
    1 ≤ (weight (fieldAt b 5) : Int) - weight (fieldAt b 1) + 1 ∧
    (weight (fieldAt b 5) : Int) - weight (fieldAt b 1) + 1 ≤ 268435455) ∨
  (b.head? = some 5 ∧ b.length = 11)

/-- An accepted query: one of the four query commands, legal (R111). -/
def IsQuery : Instr → Prop
  | .queryBytes _ _ | .queryByte _ _ | .queryRange _ _ | .queryBulk _ _ _ => True
  | _ => False

/-- The events that clear the session flags: an accepted query command, and `RESET` (R17). -/
def ClearsSession (i : Instr) (s : State) : Prop :=
  i = .reset ∨ (IsQuery i ∧ s.fsm = .idle ∧ i.wellFormed s.cfg = true)

/-- The events that clear `ARG`: any accepted command, and `RESET` (R17). -/
def ClearsArg (i : Instr) (s : State) : Prop :=
  i = .reset ∨ (i.isCommand = true ∧ s.fsm = .idle ∧ i.wellFormed s.cfg = true)

/-- An output that is a `RESULT`. -/
def isResult : Output → Bool
  | .result _ _ => true
  | _ => false

/-- An output that is a sent frame. -/
def isTx : Output → Bool
  | .tx _ => true
  | _ => false

/-- The bytes of a sysex message event. -/
def sysexBytes : PortEvent → Option (List Byte)
  | .message .sysex f => some f
  | _ => none

/-- The bit of `STATUS` that an error sets (R170, R17). -/
def flagBit : ErrorKind → Nat
  | .framingKind => 3
  | .framingRunt => 4
  | .timeout => 2
  | .overflow => 5
  | .checksum => 6
  | .argument => 7

/-- The `FSM` and `CMDR`, `TGT`, `TGT_EN` and the parameters and ports are as before. -/
def SameSession (s t : State) : Prop :=
  t.cfg = s.cfg ∧ t.inbox = s.inbox ∧ t.cmdr = s.cmdr ∧ t.tgt = s.tgt ∧ t.tgtEn = s.tgtEn

end Sys2Proof.Spec

open Sys2Proof Sys2Proof.Machine

/-! ## The arithmetic units -/

/-- R90: the checksum is the negated byte sum modulo 128, with the laws the rule lists. -/
def Obligations.ChecksumIsNegatedSumModulo128 : Prop :=
  (∀ p : List Byte,
    (sum7 p).toNat = (p.map BitVec.toNat).sum % 128 ∧
    (checksum p).toNat = (128 - (p.map BitVec.toNat).sum % 128) % 128 ∧
    (checksum p).toNat < 128 ∧
    ((p.map BitVec.toNat).sum + (checksum p).toNat) % 128 = 0 ∧
    checksum (p.map fun b => b &&& 0x7F) = checksum p) ∧
  (∀ p q : List Byte, p.Perm q → checksum p = checksum q) ∧
  checksum [] = 0 ∧
  sum7 [0x60, 0x00, 0x00, 0x21, 0x32] = 0x33 ∧ checksum [0x60, 0x00, 0x00, 0x21, 0x32] = 0x4D

/-- R91: what the validator answers on a frame of at least 12 bytes, with the rule's two consequences. -/
def Obligations.VerifyChecksInboundPayload : Prop :=
  (∀ (f : List Byte) (last : Byte), 12 ≤ f.length → f.getLast? = some last →
    (verify f = true ↔ checksum (f.drop 7).dropLast = last) ∧
    (128 ≤ last.toNat → verify f = false) ∧
    (last.toNat < 128 → (verify f = true ↔ ((f.drop 7).map BitVec.toNat).sum % 128 = 0))) ∧
  (∀ h : FrameHead, verify (headBytes h ++ [0x60, 0x00, 0x00, 0x21, 0x32, 0x4D]) = true ∧
    verify (headBytes h ++ [0x60, 0x00, 0x00, 0x21, 0x32, 0x4C]) = false)

/-- R92: the encoder gives the four base-128 digits. -/
def Obligations.EncodeScalarGivesBase128Digits : Prop :=
  (∀ n : BitVec 28,
    (encodeScalar n).b0.toNat = n.toNat / 2097152 ∧
    (encodeScalar n).b1.toNat = n.toNat / 16384 % 128 ∧
    (encodeScalar n).b2.toNat = n.toNat / 128 % 128 ∧
    (encodeScalar n).b3.toNat = n.toNat % 128 ∧
    Spec.Digits (encodeScalar n)) ∧
  encodeScalar 0 = ⟨0, 0, 0, 0⟩ ∧ encodeScalar 1 = ⟨0, 0, 0, 1⟩ ∧ encodeScalar 241 = ⟨0, 0, 1, 0x71⟩ ∧
  encodeScalar 482 = ⟨0, 0, 3, 0x62⟩ ∧ encodeScalar 16384 = ⟨0, 1, 0, 0⟩ ∧ encodeScalar 2097152 = ⟨1, 0, 0, 0⟩ ∧
  encodeScalar 268435455 = ⟨0x7F, 0x7F, 0x7F, 0x7F⟩

/-- R93: the decoder weighs the four digits, which is their concatenation; the operations that decode refuse a byte that is
no digit. -/
def Obligations.DecodeScalarWeighsDigits : Prop :=
  (∀ q : Quad, Spec.Digits q →
    (decodeScalar q).toNat =
      q.b0.toNat * 2097152 + q.b1.toNat * 16384 + q.b2.toNat * 128 + q.b3.toNat ∧
    decodeScalar q = q.b0.extractLsb' 0 7 ++ q.b1.extractLsb' 0 7 ++ q.b2.extractLsb' 0 7 ++ q.b3.extractLsb' 0 7) ∧
  (∀ (q r : Quad) (off : BitVec 32) (s : State), s.fsm = .idle → ¬ Spec.Digits q →
    exec (.queryByte q off) s = .next (Spec.refused s) ∧ exec (.queryRange q r) s = .next (Spec.refused s) ∧
    exec (.queryRange r q) s = .next (Spec.refused s)) ∧
  decodeScalar ⟨0, 0, 3, 0x62⟩ = 482 ∧ decodeScalar ⟨0x60, 0, 6, 0x50⟩ = 201327440

/-- R94: the two are inverse bijections, and both are strictly monotone in the lexicographic order of the digits. -/
def Obligations.ScalarRoundTripIsExact : Prop :=
  (∀ n : BitVec 28, decodeScalar (encodeScalar n) = n) ∧
  (∀ q : Quad, Spec.Digits q → encodeScalar (decodeScalar q) = q) ∧
  (∀ n m : BitVec 28, n < m ↔ quadBytes (encodeScalar n) < quadBytes (encodeScalar m)) ∧
  (∀ p q : Quad, Spec.Digits p → Spec.Digits q → (decodeScalar p < decodeScalar q ↔ quadBytes p < quadBytes q))

/-- R95: the effective address is the exact sum, or out of range, which refuses the command. -/
def Obligations.EffectiveAddressIsExactSum : Prop :=
  (∀ (base : Quad) (off : BitVec 32), Spec.Digits base →
    ((Spec.weight base : Int) + off.toInt < 0 ∨ 268435455 < (Spec.weight base : Int) + off.toInt →
      effectiveAddress base off = none ∧
      ∀ s : State, s.fsm = .idle → exec (.queryByte base off) s = .next (Spec.refused s)) ∧
    (0 ≤ (Spec.weight base : Int) + off.toInt ∧ (Spec.weight base : Int) + off.toInt ≤ 268435455 →
      ∃ e, effectiveAddress base off = some e ∧ Spec.Digits e ∧
        (Spec.weight e : Int) = (Spec.weight base : Int) + off.toInt)) ∧
  effectiveAddress ⟨0x60, 0, 6, 0x50⟩ 3 = some ⟨0x60, 0, 6, 0x53⟩ ∧
  effectiveAddress ⟨0, 0, 0, 0x7F⟩ 1 = some ⟨0, 0, 1, 0⟩

/-- R96: the target count, its value on multiples of 241 and off them, and its largest value. -/
def Obligations.TargetChunksCountsOneMoreThanWholeChunks : Prop :=
  (∀ n : BitVec 28,
    (targetChunks n).toNat = n.toNat / 241 + 1 ∧
    1 ≤ (targetChunks n).toNat ∧
    ((targetChunks n).toNat = (n.toNat + 240) / 241 ↔ n.toNat % 241 ≠ 0) ∧
    (n.toNat % 241 = 0 → (targetChunks n).toNat = (n.toNat + 240) / 241 + 1) ∧
    (targetChunks n).toNat ≤ 1113841) ∧
  targetChunks 0 = 1 ∧ targetChunks 1 = 1 ∧ targetChunks 240 = 1 ∧ targetChunks 241 = 2 ∧ targetChunks 242 = 2 ∧
  targetChunks 481 = 2 ∧ targetChunks 482 = 3 ∧ targetChunks 483 = 3 ∧ targetChunks 723 = 4 ∧
  targetChunks 1000 = 5 ∧ targetChunks 268435455 = 1113841

/-- R97: the span counts both ends, or is out of range, which refuses the command. -/
def Obligations.SpanCountsBothEnds : Prop :=
  (∀ first last : Quad, Spec.Digits first → Spec.Digits last →
    (Spec.weight last < Spec.weight first ∨ Spec.weight last - Spec.weight first + 1 = 268435456 →
      span first last = none ∧
      ∀ s : State, s.fsm = .idle → exec (.queryRange first last) s = .next (Spec.refused s)) ∧
    (Spec.weight first ≤ Spec.weight last → Spec.weight last - Spec.weight first + 1 ≤ 268435455 →
      ∃ n, span first last = some n ∧ n.toNat = Spec.weight last - Spec.weight first + 1)) ∧
  (∀ q : Quad, Spec.Digits q → span q q = some 1) ∧
  span ⟨0, 0, 0, 0⟩ ⟨0, 0, 3, 0x61⟩ = some 482

/-- R98: the assembly of a result goes entry by entry in arrival order; addresses play no part in `concat` and the
`ok` bit plays none in either. -/
def Obligations.ResultAssemblyKeepsArrivalOrder : Prop :=
  (∀ buf : List Entry,
    concatData buf = (buf.map Entry.data).flatten ∧
    (∀ i : Nat, (pairData buf)[i]? = (buf[i]?).map fun e => (e.addr, e.data)) ∧
    (∀ e : Entry, concatData (buf ++ [e]) = concatData buf ++ e.data ∧
      pairData (buf ++ [e]) = pairData buf ++ [(e.addr, e.data)])) ∧
  (∀ b c : List Entry, b.map Entry.data = c.map Entry.data → concatData b = concatData c)

/-! ## Encodings -/

/-- Every operation of the table, at every operand value its encoding admits, decodes from its own bytes; a frame of the
outbound direction needs prefixes that differ (D1) and a legal size (R61). -/
def Obligations.DecodeUndoesEncode : Prop :=
  ∀ (c : Config) (i : Instr),
    (i.channel = .outbound → c.pfxStore ≠ c.pfxQuery ∧ i.wellFormed c = true) →
    decode c i.channel (encode c i) = .ok i

/-- Bytes have one meaning: what decodes is written back as the same bytes. On the trace channel this rests on the model's
choice for the kind bit of a traced `RX_MSG` (log 9): a byte 1 or 0, and no other kind byte is an `RX_MSG`. -/
def Obligations.EncodeUndoesDecode : Prop :=
  ∀ (c : Config) (channel : Channel) (bytes : List Byte) (i : Instr),
    decode c channel bytes = .ok i → i.channel = channel ∧ encode c i = bytes

/-- Words written out from R68 and R70 decode to what they stand for. That the kind bit of the traced `RX_MSG` is the byte
0x01 is the model's choice (log 9); R70 gives a kind bit and no byte for it. -/
def Obligations.WrittenOutWordsDecode : Prop :=
  decodeEvent (.command [0x01, 0x60, 0x00, 0x00, 0x21, 0x32]) = .ok (.sendStore ⟨0x60, 0x00, 0x00, 0x21⟩ [0x32]) ∧
  decodeEvent (.command [0x02, 0x60, 0x00, 0x12, 0x00, 0x00, 0x00, 0x01, 0xE2]) =
    .ok (.queryBytes ⟨0x60, 0x00, 0x12, 0x00⟩ 482) ∧
  decodeEvent (.command [0x03, 0x00, 0x00, 0x00, 0x00, 0xFF, 0xFF, 0xFF, 0xFF]) =
    .ok (.queryByte ⟨0, 0, 0, 0⟩ (-1)) ∧
  decodeEvent (.command [0x04, 0x00, 0x00, 0x00, 0x00, 0x00, 0x00, 0x03, 0x61]) =
    .ok (.queryRange ⟨0, 0, 0, 0⟩ ⟨0, 0, 3, 0x61⟩) ∧
  decodeEvent (.command [0x05, 0x00, 0x00, 0x00, 0x00, 0x7F, 0x7F, 0x7F, 0x7F, 0x00, 0x14]) =
    .ok (.queryBulk ⟨0, 0, 0, 0⟩ ⟨0x7F, 0x7F, 0x7F, 0x7F⟩ 20) ∧
  decodeEvent (eventOfTrace [0x10, 0x01, 0x50]) = .ok (.rxMsg .sysex [0x50]) ∧
  decodeEvent (eventOfTrace [0x11]) = .ok .tick ∧
  decodeEvent (eventOfTrace [0x1F]) = .ok .reset

/-- The command bytes that are no command (R72, rows 1 and 2): exactly the empty one, the unknown codes and the wrong
lengths. -/
def Obligations.UndecodableCommandsAreTheIllegalEncodings : Prop :=
  ∀ bytes : List Byte,
    (∃ e, decodeCommand bytes = .error e) ↔
      bytes = [] ∨
      (∃ code, bytes.head? = some code ∧ (code = 0 ∨ 6 ≤ code.toNat)) ∨
      (bytes.head? = some 1 ∧ bytes.length < 5) ∨
      ((bytes.head? = some 2 ∨ bytes.head? = some 3 ∨ bytes.head? = some 4) ∧ bytes.length ≠ 9) ∨
      (bytes.head? = some 5 ∧ bytes.length ≠ 11)

/-! ## The host commands -/

/-- R112: what `SEND_STORE` does, in `IDLE`, with data that fits, with data too long, and with too few bytes. Everything not
named keeps its value. (Outside `IDLE` it is held, R110: `CommandsOutsideIdleHaveNoEffect`.) -/
def Obligations.SendStoreSendsOneFrame : Prop :=
  (∀ (addr : Quad) (data : List Byte) (s : State),
    (s.fsm = .idle → data.length ≤ s.cfg.txDataMax →
      exec (.sendStore addr data) s = .next
        { s with
          status := { s.status with arg := false }
          out := s.out ++ [.tx (Spec.frame s.cfg.pfxStore (quadBytes addr ++ data))] }) ∧
    (s.fsm = .idle → s.cfg.txDataMax < data.length →
      exec (.sendStore addr data) s = .next (Spec.refused s))) ∧
  (∀ (operands : List Byte) (rest : List PortEvent) (s : State),
    s.fsm = .idle → s.inbox = .command (0x01 :: operands) :: rest → operands.length < 4 →
      step s = .next (Spec.refused { s with inbox := rest }))

/-- R113: what `QUERY_BYTES` does when it is taken. -/
def Obligations.QueryBytesOpensACountedSession : Prop :=
  ∀ (addr : Quad) (len : BitVec 32) (s : State),
    (s.fsm = .idle → len.toNat < 2 ^ 28 →
      exec (.queryBytes addr len) s = .next
        (Spec.counted .queryBytes (len.toNat / 241 + 1)
          (quadBytes addr ++ quadBytes (encodeScalar (BitVec.ofNat 28 len.toNat))) s)) ∧
    (s.fsm = .idle → 2 ^ 28 ≤ len.toNat → exec (.queryBytes addr len) s = .next (Spec.refused s))

/-- R114: what `QUERY_BYTE` does when it is taken. -/
def Obligations.QueryByteReadsTheEffectiveAddress : Prop :=
  ∀ (base : Quad) (off : BitVec 32) (s : State),
    (∀ e, s.fsm = .idle → Spec.Digits base → effectiveAddress base off = some e →
      exec (.queryByte base off) s = .next
        (Spec.counted .queryByte 1 (quadBytes e ++ [0x00, 0x00, 0x00, 0x01]) s)) ∧
    (s.fsm = .idle → ¬ Spec.Digits base → exec (.queryByte base off) s = .next (Spec.refused s)) ∧
    (s.fsm = .idle → Spec.Digits base → effectiveAddress base off = none →
      exec (.queryByte base off) s = .next (Spec.refused s))

/-- R115: what `QUERY_RANGE` does when it is taken. -/
def Obligations.QueryRangeReadsTheSpan : Prop :=
  ∀ (first last : Quad) (s : State),
    (∀ n, s.fsm = .idle → Spec.Digits first → Spec.Digits last → span first last = some n →
      exec (.queryRange first last) s = .next
        (Spec.counted .queryRange (n.toNat / 241 + 1) (quadBytes first ++ quadBytes (encodeScalar n)) s)) ∧
    (s.fsm = .idle → ¬ (Spec.Digits first ∧ Spec.Digits last) →
      exec (.queryRange first last) s = .next (Spec.refused s)) ∧
    (s.fsm = .idle → Spec.Digits first → Spec.Digits last → span first last = none →
      exec (.queryRange first last) s = .next (Spec.refused s))

/-- R116: what `QUERY_BULK` does in the step that takes it, with a delay and with none. (How a delay above 0 ends is R149:
`TickCountsDownTheDelay`, `BulkQueryReturnsItsWindow`.) -/
def Obligations.QueryBulkWaitsItsDelay : Prop :=
  (∀ (addr size : Quad) (delay : BitVec 16) (s : State),
    (s.fsm = .idle → delay ≠ 0 →
      exec (.queryBulk addr size delay) s = .next
        { s with
          fsm := .waitDelay
          cmdr := .queryBulk
          tgt := 0
          tgtEn := false
          cnt := 0
          tmr := delay
          buf := []
          status := ⟨false, false, false, false, false, false, false⟩
          out := s.out ++ [.tx (Spec.frame s.cfg.pfxQuery (quadBytes addr ++ quadBytes size))] }) ∧
    (s.fsm = .idle → delay = 0 →
      exec (.queryBulk addr size delay) s = .next
        { s with
          fsm := .idle
          cmdr := .queryBulk
          tgt := 0
          tgtEn := false
          cnt := 0
          tmr := 0
          buf := []
          status := ⟨true, false, false, false, false, false, false⟩
          out := s.out ++
            [.tx (Spec.frame s.cfg.pfxQuery (quadBytes addr ++ quadBytes size)), .result .ok (.pairs [])] })) ∧
  (∀ (operands : List Byte) (rest : List PortEvent) (s : State),
    s.fsm = .idle → s.inbox = .command (0x05 :: operands) :: rest → operands.length ≠ 10 →
      step s = .next (Spec.refused { s with inbox := rest }))

/-- R118 with the legality of R69: a command at the head of the ports of an idle block is refused, with the effect of R118
and no other, exactly when it is illegal; a legal one clears `ARG` and sends a frame; in a waiting state it is held. -/
def Obligations.IllegalCommandsAreRefused : Prop :=
  ∀ (s : State) (bytes : List Byte) (rest : List PortEvent), s.inbox = .command bytes :: rest →
    (s.fsm = .idle → ¬ Spec.LegalCommand s.cfg bytes → step s = .next (Spec.refused { s with inbox := rest })) ∧
    (s.fsm = .idle → Spec.LegalCommand s.cfg bytes →
      ∃ t, step s = .next t ∧ t.status.arg = false ∧ t.inbox = rest ∧ ∃ f l, t.out = s.out ++ .tx f :: l) ∧
    (s.fsm ≠ .idle → ∃ t, step s = .next t ∧ t.inbox.head? = some (.command bytes))

/-- Outside `IDLE` a command is held and has no effect (R110). That running one there leaves the state as it is, is the
model's reading (log 6): a step never takes one. -/
def Obligations.CommandsOutsideIdleHaveNoEffect : Prop :=
  ∀ (i : Instr) (s : State), i.isCommand = true → s.fsm ≠ .idle → exec i s = .next s

/-! ## Wire frames -/

/-- R61: the store frame, field by field; building it sends it and writes no register. Its taking place in `IDLE` only,
and the refusal of data no store frame carries, are the model's (log 7). -/
def Obligations.StoreFrameHasItsFields : Prop :=
  ∀ (addr : Quad) (data : List Byte) (s : State),
    (s.fsm = .idle → data.length ≤ s.cfg.txDataMax →
      exec (.frameStore addr data) s = .next
        { s with out := s.out ++ [.tx (encode s.cfg (.frameStore addr data))] }) ∧
    (s.fsm = .idle → s.cfg.txDataMax < data.length → exec (.frameStore addr data) s = .next (Spec.refused s)) ∧
    (s.fsm ≠ .idle → exec (.frameStore addr data) s = .next s) ∧
    (encode s.cfg (.frameStore addr data)).length = 12 + data.length ∧
    (encode s.cfg (.frameStore addr data)).take 7 = headBytes s.cfg.pfxStore ∧
    ((encode s.cfg (.frameStore addr data)).drop 7).take 4 = quadBytes addr ∧
    ((encode s.cfg (.frameStore addr data)).drop 11).take data.length = data ∧
    (encode s.cfg (.frameStore addr data)).drop (11 + data.length) = [checksum (quadBytes addr ++ data)]

/-- R62: the query frame, field by field; building it sends it and writes no register. Its taking place in `IDLE` only
is the model's (log 7). -/
def Obligations.QueryFrameHasItsFields : Prop :=
  ∀ (addr length : Quad) (s : State),
    (s.fsm = .idle →
      exec (.frameQuery addr length) s = .next
        { s with out := s.out ++ [.tx (encode s.cfg (.frameQuery addr length))] }) ∧
    (s.fsm ≠ .idle → exec (.frameQuery addr length) s = .next s) ∧
    (encode s.cfg (.frameQuery addr length)).length = 16 ∧
    (encode s.cfg (.frameQuery addr length)).take 7 = headBytes s.cfg.pfxQuery ∧
    ((encode s.cfg (.frameQuery addr length)).drop 7).take 4 = quadBytes addr ∧
    ((encode s.cfg (.frameQuery addr length)).drop 11).take 4 = quadBytes length ∧
    (encode s.cfg (.frameQuery addr length)).drop 15 = [checksum (quadBytes addr ++ quadBytes length)]

/-- R63: an inbound chunk stores its address and data unchanged and its checksum's verdict; its prefix is stored
nowhere. That the row `FRAME_CHUNK` is the `RX_MSG` of its bytes is the model's reading (log 8). -/
def Obligations.InboundChunkStoresItsFields : Prop :=
  ∀ (head : FrameHead) (addr : Quad) (data : List Byte) (csum : Byte) (s : State),
    exec (.frameChunk head addr data csum) s =
      exec (.rxMsg .sysex (headBytes head ++ quadBytes addr ++ data ++ [csum])) s ∧
    ((csum = checksum (quadBytes addr ++ data) ∨ s.cfg.dropBadCsum = false) →
      s.buf.length ≠ s.cfg.bufChunks → data.length ≤ s.cfg.bufPayloadMax →
      ∃ t, exec (.frameChunk head addr data csum) s = .next t ∧
        t.buf = s.buf ++ [⟨addr, data, csum == checksum (quadBytes addr ++ data)⟩] ∧ t.cnt = s.cnt + 1)

/-! ## Ingestion -/

/-- R141: a message of another kind sets `FRM` and is reported; nothing else, whatever its bytes. -/
def Obligations.ForeignKindIsReportedAndDropped : Prop :=
  ∀ (f : List Byte) (s : State),
    exec (.rxMsg .other f) s = .next
      { s with status := { s.status with frm := true }, out := s.out ++ [.report .framingKind] }

/-- R142: a sysex message shorter than 12 bytes sets `RUNT` and is reported; nothing else. One of exactly 12 bytes is a
chunk with empty data. -/
def Obligations.RuntIsReportedAndDropped : Prop :=
  ∀ (f : List Byte) (s : State),
    (f.length < 12 →
      exec (.rxMsg .sysex f) s = .next
        { s with status := { s.status with runt := true }, out := s.out ++ [.report .framingRunt] }) ∧
    (f.length = 12 → (verify f = true ∨ s.cfg.dropBadCsum = false) → s.buf.length ≠ s.cfg.bufChunks →
      ∃ t, exec (.rxMsg .sysex f) s = .next t ∧
        t.buf = s.buf ++ [⟨Spec.chunkAddr f, [], verify f⟩] ∧ t.cnt = s.cnt + 1)

/-- R143, R144, R146, in every `FSM` state: a chunk that fits is appended with its fields as received and counted, a bad
checksum marks it and is reported; with `DROP_BAD_CSUM` a bad chunk is only reported. What else the step does is nothing,
or the completion of R147 (`TargetChunkCompletesTheQuery`). -/
def Obligations.ChunkIsAppendedAndCounted : Prop :=
  ∀ (f : List Byte) (s : State), 12 ≤ f.length →
    ((verify f = true ∨ s.cfg.dropBadCsum = false) → Spec.Fits s.cfg f → s.buf.length ≠ s.cfg.bufChunks →
      ∃ t, exec (.rxMsg .sysex f) s = .next t ∧
        t.buf = s.buf ++ [⟨Spec.chunkAddr f, Spec.chunkData f, verify f⟩] ∧ t.cnt = s.cnt + 1 ∧
        t.status.cse = (s.status.cse || !verify f) ∧
        (∃ l, t.out = s.out ++ (if verify f = true then [] else [.report .checksum]) ++ l) ∧
        (¬ Spec.Completes s → t = Spec.appended f s)) ∧
    (verify f = false → s.cfg.dropBadCsum = true →
      exec (.rxMsg .sysex f) s = .next
        { s with status := { s.status with cse := true }, out := s.out ++ [.report .checksum] })

/-- R147: the append that reaches the target in `WAIT_COUNT` ends the session in the same step, with `DONE` and one
`RESULT(OK, value)` built from the buffer with the new entry; `TMR` keeps its value. Any other append ends nothing. -/
def Obligations.TargetChunkCompletesTheQuery : Prop :=
  ∀ (f : List Byte) (s : State),
    (verify f = true ∨ s.cfg.dropBadCsum = false) → Spec.Fits s.cfg f → s.buf.length ≠ s.cfg.bufChunks →
    (Spec.Completes s →
      ∃ v, Spec.IsValue s.cmdr (Spec.appended f s).buf v ∧
        exec (.rxMsg .sysex f) s = .next
          { Spec.appended f s with
            fsm := .idle
            status := { (Spec.appended f s).status with done := true }
            out := (Spec.appended f s).out ++ [.result .ok v] }) ∧
    (¬ Spec.Completes s → exec (.rxMsg .sysex f) s = .next (Spec.appended f s))

/-- R145: a chunk that does not fit is reported and dropped, after the report of its checksum if that is bad; the session
goes on. -/
def Obligations.OverflowDropsTheChunk : Prop :=
  ∀ (f : List Byte) (s : State), 12 ≤ f.length →
    (verify f = true ∨ s.cfg.dropBadCsum = false) →
    (s.buf.length = s.cfg.bufChunks ∨ 12 + s.cfg.bufPayloadMax < f.length) →
    exec (.rxMsg .sysex f) s = .next
      { s with
        status := { s.status with ovf := true, cse := s.status.cse || !verify f }
        out := s.out ++ (if verify f = true then [] else [.report .checksum]) ++ [.report .overflow] }

/-- What an inbound message leaves as it is, in every case: parameters, ports, kind, target, timer, `TO`, `ARG`, and every
entry already in the buffer; at most one entry is added and `CNT` counts it; `FSM` changes only from `WAIT_COUNT` to
`IDLE`. -/
def Obligations.InboundMessageFrame : Prop :=
  ∀ (i : Instr) (s t : State),
    ((∃ k f, i = .rxMsg k f) ∨ (∃ h a d c, i = .frameChunk h a d c)) → exec i s = .next t →
    Spec.SameSession s t ∧ t.tmr = s.tmr ∧ t.status.timeout = s.status.timeout ∧ t.status.arg = s.status.arg ∧
    (∃ added, t.buf = s.buf ++ added ∧ added.length ≤ 1 ∧ t.cnt = s.cnt + BitVec.ofNat 21 added.length) ∧
    (t.fsm = s.fsm ∨ (s.fsm = .waitCount ∧ t.fsm = .idle))

/-- The prefix of an inbound frame is not examined (R64): two sysex messages that differ in their first 7 bytes only
have the same effect. -/
def Obligations.InboundPrefixIsNotExamined : Prop :=
  ∀ (f g : List Byte) (s : State), f.length = g.length → f.drop 7 = g.drop 7 →
    exec (.rxMsg .sysex f) s = exec (.rxMsg .sysex g) s

/-- R152: the byte-serial receiver computes the same step as the atomic one, for every message, in every state. That the
receiver stops storing at `BUF_PAYLOAD_MAX` + 1 data bytes is the model's choice among what R152 allows (log 13). -/
def Obligations.SerialReceiverEqualsIngestionStep : Prop :=
  ∀ (k : MsgKind) (f : List Byte) (s : State), Host.Outcome.next (rxSerial k f s) = exec (.rxMsg k f) s

/-! ## The timer, reset -/

/-- R148: a tick in `WAIT_COUNT`; from the loaded value 5 the fifth tick, and none before it, ends the query. -/
def Obligations.TickCountsDownTheTimeout : Prop :=
  ∀ s : State, s.fsm = .waitCount →
    (2 ≤ s.tmr.toNat → exec .tick s = .next { s with tmr := BitVec.ofNat 16 (s.tmr.toNat - 1) }) ∧
    (s.tmr.toNat = 1 → ∃ v, Spec.IsValue s.cmdr s.buf v ∧
      exec .tick s = .next
        { s with
          tmr := 0
          fsm := .idle
          status := { s.status with timeout := true }
          out := s.out ++ [.report .timeout, .result .timeout v] }) ∧
    (∀ rest, s.tmr.toNat = 5 → s.inbox = [.tick, .tick, .tick, .tick, .tick] ++ rest →
      (∃ u, core.run 4 s = .next u ∧ u.fsm = .waitCount) ∧
      ∃ t, core.run 5 s = .next t ∧ t.fsm = .idle ∧ t.status.timeout = true ∧ t.buf = s.buf ∧ t.cnt = s.cnt)

/-- R149: a tick in `WAIT_DELAY`. -/
def Obligations.TickCountsDownTheDelay : Prop :=
  ∀ s : State, s.fsm = .waitDelay →
    (2 ≤ s.tmr.toNat → exec .tick s = .next { s with tmr := BitVec.ofNat 16 (s.tmr.toNat - 1) }) ∧
    (s.tmr.toNat = 1 → s.cmdr = .queryBulk →
      exec .tick s = .next
        { s with
          tmr := 0
          fsm := .idle
          status := { s.status with done := true }
          out := s.out ++ [.result .ok (.pairs (s.buf.map fun e => (e.addr, e.data)))] })

/-- R150: a tick in `IDLE`. -/
def Obligations.TickInIdleDoesNothing : Prop := ∀ s : State, s.fsm = .idle → exec .tick s = .next s

/-- What a tick leaves as it is, in every state: parameters, ports, kind, target, counter, buffer, and the flags `FRM`,
`RUNT`, `OVF`, `CSE`, `ARG`. -/
def Obligations.TickFrame : Prop :=
  ∀ s t : State, exec .tick s = .next t →
    Spec.SameSession s t ∧ t.cnt = s.cnt ∧ t.buf = s.buf ∧
    t.status.frm = s.status.frm ∧ t.status.runt = s.status.runt ∧ t.status.ovf = s.status.ovf ∧
    t.status.cse = s.status.cse ∧ t.status.arg = s.status.arg

/-- R200: `RESET` in any state writes every register, emits nothing, and leaves the constants; the model's two lists stay
too. Power-on is a `RESET`. -/
def Obligations.ResetWritesEveryRegister : Prop :=
  ∀ s : State,
    exec .reset s = .next
      { cfg := s.cfg, fsm := .idle, cmdr := .none, tgt := 0, tgtEn := false, cnt := 0, tmr := 0, buf := []
        status := ⟨false, false, false, false, false, false, false⟩, inbox := s.inbox, out := s.out } ∧
    (s.cfg = Config.atReset → s.inbox = [] → s.out = [] → exec .reset s = .next State.reset)

/-- R21: the state after reset. -/
def Obligations.ResetStateIsAllZero : Prop :=
  State.reset.fsm = .idle ∧ fsmCode State.reset.fsm = 0 ∧ cmdrCode State.reset.cmdr = 0 ∧ State.reset.tgt = 0 ∧
  State.reset.tgtEn = false ∧ State.reset.cnt = 0 ∧ State.reset.tmr = 0 ∧ State.reset.buf = [] ∧
  State.reset.statusByte = 0x00 ∧ State.reset.busy = false

/-! ## The step and the ports -/

/-- A step runs the decoded operation on the state with its event taken from the ports; bytes that are no command are
refused; with no event to take nothing changes (log 5). -/
def Obligations.StepRunsTheDecodedOperation : Prop :=
  ∀ s : State,
    (∀ event rest i, takeEvent s.fsm s.inbox = some (event, rest) → decodeEvent event = .ok i →
      step s = exec i { s with inbox := rest }) ∧
    (∀ event rest e, takeEvent s.fsm s.inbox = some (event, rest) → decodeEvent event = .error e →
      step s = .next (Spec.refused { s with inbox := rest })) ∧
    (takeEvent s.fsm s.inbox = none → step s = .next s)

/-- R110: in `IDLE` the first event is taken, whatever it is; in a waiting state the commands before the first other event
are held unchanged, in order, and have no effect. The one list of events and its order are the model's choice (log 1), and
so is that a step with nothing but held commands answers the same state (log 5). -/
def Obligations.CommandsAreHeldWhileWaiting : Prop :=
  (∀ (e : PortEvent) (rest : List PortEvent), takeEvent .idle (e :: rest) = some (e, rest)) ∧
  (∀ (fsm : Fsm) (held rest : List PortEvent) (e : PortEvent), fsm ≠ .idle →
    (∀ h ∈ held, ∃ b, h = .command b) → (∀ b, e ≠ .command b) →
    takeEvent fsm (held ++ e :: rest) = some (e, held ++ rest)) ∧
  (∀ s : State, s.fsm ≠ .idle → (∀ h ∈ s.inbox, ∃ b, h = .command b) → step s = .next s) ∧
  (∀ s t : State, s.fsm ≠ .idle → step s = .next t →
    t.inbox.filter isCommandEvent = s.inbox.filter isCommandEvent)

/-- Every step goes on, in every state, with every event (R9, R6): the block never faults and refuses nothing outside
R118. -/
def Obligations.EveryStepGoesOn : Prop := ∀ s : State, ∃ t, Goes s t

/-- R18, R49 (4): no step changes a constant, and outputs leave in the order the steps produced them: each step only adds
to those before it, in the list that is the model's record of them (log 2). -/
def Obligations.OutputsGrowAndConstantsStay : Prop :=
  ∀ s t : State, Goes s t → t.cfg = s.cfg ∧ ∃ added, t.out = s.out ++ added

/-- R60 for what the block sends: every frame that a step emits is sent in `IDLE`, is prefix, payload and checksum with one
of the two prefixes, is at least 12 bytes long, and is the only one of its step. -/
def Obligations.EverySentFrameIsWellFramed : Prop :=
  ∀ s t : State, Goes s t → ∀ f, Output.tx f ∈ t.out.drop s.out.length →
    s.fsm = .idle ∧
    (∃ payload, 4 ≤ payload.length ∧
      (f = headBytes s.cfg.pfxStore ++ payload ++ [checksum payload] ∨
        f = headBytes s.cfg.pfxQuery ++ payload ++ [checksum payload])) ∧
    ((t.out.drop s.out.length).filter Spec.isTx).length = 1

/-! ## Whole-machine rules -/

/-- R151: every transition of `FSM`, event by event; what is not listed leaves it. That running a command outside `IDLE`
leaves the whole state is the model's reading of its being held there (log 6). -/
def Obligations.FsmMovesOnlyAsTabled : Prop :=
  ∀ (i : Instr) (s t : State), exec i s = .next t →
    (i = .reset → t.fsm = .idle) ∧
    (∀ addr data, i = .sendStore addr data → t.fsm = s.fsm) ∧
    (Spec.IsQuery i → s.fsm = .idle → i.wellFormed s.cfg = false → t.fsm = .idle) ∧
    (Spec.IsQuery i → s.fsm = .idle → i.wellFormed s.cfg = true → (∀ a z d, i ≠ .queryBulk a z d) →
      t.fsm = .waitCount) ∧
    (∀ addr size delay, i = .queryBulk addr size delay → s.fsm = .idle →
      t.fsm = if delay = 0 then .idle else .waitDelay) ∧
    (i.isCommand = true → s.fsm ≠ .idle → t = s) ∧
    (∀ k f, i = .rxMsg k f →
      t.fsm = if s.fsm = .waitCount ∧ s.tgtEn = true ∧ t.cnt = s.cnt + 1 ∧ t.cnt = t.tgt then .idle else s.fsm) ∧
    (i = .tick → t.fsm = if s.fsm ≠ .idle ∧ t.tmr = 0 then .idle else s.fsm)

/-- R117, R52: in a waiting state the event that ends the wait emits exactly one `RESULT`, every other event none; `RESET`
ends the wait with none (R201). -/
def Obligations.OneResultExactlyWhenTheWaitEnds : Prop :=
  ∀ (i : Instr) (s t : State), s.fsm ≠ .idle → exec i s = .next t →
    ((t.out.drop s.out.length).filter Spec.isResult).length =
      if t.fsm = .idle ∧ i ≠ .reset then 1 else 0

/-- R17: a flag once set stays set until an event that clears it: an accepted query command or `RESET`, and for `ARG` any
accepted command or `RESET`. -/
def Obligations.FlagsStayUntilCleared : Prop :=
  ∀ (i : Instr) (s t : State), exec i s = .next t →
    (¬ Spec.ClearsSession i s →
      (s.status.done = true → t.status.done = true) ∧ (s.status.timeout = true → t.status.timeout = true) ∧
      (s.status.frm = true → t.status.frm = true) ∧ (s.status.runt = true → t.status.runt = true) ∧
      (s.status.ovf = true → t.status.ovf = true) ∧ (s.status.cse = true → t.status.cse = true)) ∧
    (¬ Spec.ClearsArg i s → s.status.arg = true → t.status.arg = true) ∧
    (Spec.ClearsArg i s → t.status.arg = false)

/-- R17: the bits of `STATUS`; `BUSY` is not stored. -/
def Obligations.StatusByteHasItsBits : Prop :=
  ∀ s : State,
    s.statusByte.getLsbD 0 = decide (s.fsm ≠ .idle) ∧ s.statusByte.getLsbD 1 = s.status.done ∧
    s.statusByte.getLsbD 2 = s.status.timeout ∧ s.statusByte.getLsbD 3 = s.status.frm ∧
    s.statusByte.getLsbD 4 = s.status.runt ∧ s.statusByte.getLsbD 5 = s.status.ovf ∧
    s.statusByte.getLsbD 6 = s.status.cse ∧ s.statusByte.getLsbD 7 = s.status.arg

/-- R170: raising an error sets its one flag of `STATUS` and emits its one report, and changes nothing else; the codes of the
reports. -/
def Obligations.RaisingSetsOneFlagAndReports : Prop :=
  (∀ (e : ErrorKind) (s : State),
    (raise e s).statusByte = s.statusByte ||| BitVec.twoPow 8 (Spec.flagBit e) ∧
    (raise e s).out = s.out ++ [.report e] ∧
    raise e s = { s with status := (raise e s).status, out := (raise e s).out }) ∧
  reportCode .framingKind = 1 ∧ reportCode .framingRunt = 2 ∧ reportCode .timeout = 3 ∧ reportCode .overflow = 4 ∧
  reportCode .checksum = 5 ∧ reportCode .argument = 6

/-- The state after reset has the invariants, whatever legal parameters the block has. -/
def Obligations.ResetHasTheInvariants : Prop :=
  State.reset.Inv ∧ ∀ c : Config, c.Legal → (State.resetWith c).Inv

/-- The invariants of R14, R13, R16, R17 and R151 are kept by every step, from every state that has them. -/
def Obligations.EveryStepKeepsTheInvariants : Prop := ∀ s t : State, s.Inv → Goes s t → t.Inv

/-- Every operation of the table keeps the chunk buffer's form, its agreement with `CNT`, and the bounds of R14. -/
def Obligations.BufferFormIsKept : Prop :=
  ∀ (i : Instr) (s t : State), s.cfg.Legal → Memory.wf s.cfg s.buf = true → s.cnt.toNat = s.buf.length →
    exec i s = .next t →
    Memory.wf t.cfg t.buf = true ∧ t.cnt.toNat = t.buf.length ∧ t.cnt.toNat ≤ t.cfg.bufChunks

/-- R151: every waiting state is left after at most `TMR` further ticks, whatever other events come between them and
however many commands are held: once that many ticks are among the pending events, some run of at most as many steps as
events are pending reaches `IDLE` and takes at most `TMR` of the ticks. -/
def Obligations.WaitEndsWithinTmrTicks : Prop :=
  ∀ s : State, s.Inv → s.fsm ≠ .idle → s.tmr.toNat ≤ s.inbox.count .tick →
    ∃ k t, k ≤ s.inbox.length ∧ core.run k s = .next t ∧ t.fsm = .idle ∧
      s.inbox.count .tick ≤ t.inbox.count .tick + s.tmr.toNat

/-- The reassembly controller from end to end: a `QUERY_BYTES` and then as many frames as its target, each one that fits,
end with `DONE`, `CNT` at the target, and `RESULT(OK, …)` of the chunk data joined in arrival order, whatever prefixes,
addresses and (by default) checksums the frames have. -/
def Obligations.QueryBytesReturnsChunksInArrivalOrder : Prop :=
  ∀ (s : State) (addr : Quad) (len : BitVec 32) (frames : List (List Byte)) (rest : List PortEvent),
    s.fsm = .idle → s.cfg.dropBadCsum = false → len.toNat < 2 ^ 28 →
    frames.length = len.toNat / 241 + 1 → frames.length ≤ s.cfg.bufChunks →
    (∀ f ∈ frames, Spec.Fits s.cfg f) →
    s.inbox = .command (encode s.cfg (.queryBytes addr len)) :: (frames.map (.message .sysex) ++ rest) →
    ∃ t, core.run (frames.length + 1) s = .next t ∧
      t.fsm = .idle ∧ t.inbox = rest ∧ t.status.done = true ∧ t.status.timeout = false ∧
      t.cnt.toNat = len.toNat / 241 + 1 ∧
      t.buf.map (fun e => (e.addr, e.data)) = frames.map (fun f => (Spec.chunkAddr f, Spec.chunkData f)) ∧
      t.out.getLast? = some (.result .ok (.bytes (frames.map Spec.chunkData).flatten))

/-- The same for `QUERY_RANGE`, which returns the per-chunk address and data pairs, not concatenated, in arrival order. -/
def Obligations.QueryRangeReturnsPairsInArrivalOrder : Prop :=
  ∀ (s : State) (first last : Quad) (n : BitVec 28) (frames : List (List Byte)) (rest : List PortEvent),
    s.fsm = .idle → s.cfg.dropBadCsum = false → Spec.Digits first → Spec.Digits last → span first last = some n →
    frames.length = n.toNat / 241 + 1 → frames.length ≤ s.cfg.bufChunks →
    (∀ f ∈ frames, Spec.Fits s.cfg f) →
    s.inbox = .command (encode s.cfg (.queryRange first last)) :: (frames.map (.message .sysex) ++ rest) →
    ∃ t, core.run (frames.length + 1) s = .next t ∧
      t.fsm = .idle ∧ t.inbox = rest ∧ t.status.done = true ∧
      t.out.getLast? =
        some (.result .ok (.pairs (frames.map fun f => (Spec.chunkAddr f, Spec.chunkData f))))

/-- A `QUERY_BYTES` whose chunks fall short of its target ends at the fifth tick after its command, with the timeout
signalled and whatever partial data came, in arrival order: no data is made up. -/
def Obligations.ShortQueryTimesOutAtTheFifthTick : Prop :=
  ∀ (s : State) (addr : Quad) (len : BitVec 32) (before rest : List PortEvent),
    s.fsm = .idle → s.cfg.dropBadCsum = false → len.toNat < 2 ^ 28 →
    before.count .tick = 4 →
    (∀ e ∈ before, e = .tick ∨ (∃ f, e = .message .other f) ∨ ∃ f, e = .message .sysex f ∧ Spec.Fits s.cfg f) →
    (before.filterMap Spec.sysexBytes).length < len.toNat / 241 + 1 →
    (before.filterMap Spec.sysexBytes).length ≤ s.cfg.bufChunks →
    s.inbox = .command (encode s.cfg (.queryBytes addr len)) :: (before ++ .tick :: rest) →
    ∃ t, core.run (before.length + 2) s = .next t ∧
      t.fsm = .idle ∧ t.inbox = rest ∧ t.status.timeout = true ∧ t.status.done = false ∧ t.tmr = 0 ∧
      t.out.getLast? =
        some (.result .timeout (.bytes ((before.filterMap Spec.sysexBytes).map Spec.chunkData).flatten))

/-- The multiple-of-241 hazard (R205): a device that answers `QUERY_BYTES` of a multiple of 241 bytes with that many full
chunks leaves the query one chunk short; it ends at the fifth tick with the timeout signalled and all the bytes in
hand. -/
def Obligations.MultipleOf241TimesOutWithAllItsBytes : Prop :=
  ∀ (s : State) (addr : Quad) (len : BitVec 32) (frames : List (List Byte)) (rest : List PortEvent),
    s.fsm = .idle → s.cfg.dropBadCsum = false → 241 ≤ s.cfg.bufPayloadMax → len.toNat < 2 ^ 28 →
    len.toNat % 241 = 0 → frames.length = len.toNat / 241 → frames.length ≤ s.cfg.bufChunks →
    (∀ f ∈ frames, f.length = 253) →
    s.inbox = .command (encode s.cfg (.queryBytes addr len)) ::
      (frames.map (.message .sysex) ++ [.tick, .tick, .tick, .tick, .tick] ++ rest) →
    ∃ t b, core.run (frames.length + 6) s = .next t ∧
      t.fsm = .idle ∧ t.inbox = rest ∧ t.status.timeout = true ∧ t.status.done = false ∧
      b.length = len.toNat ∧ b = (frames.map Spec.chunkData).flatten ∧
      t.out.getLast? = some (.result .timeout (.bytes b))

/-- A bulk query from end to end: it ends at the tick numbered `delay` after its command, never before and with no
timeout, and returns the per-chunk pairs of everything ingested in that window. -/
def Obligations.BulkQueryReturnsItsWindow : Prop :=
  ∀ (s : State) (addr size : Quad) (delay : BitVec 16) (before rest : List PortEvent),
    s.fsm = .idle → s.cfg.dropBadCsum = false → before.count .tick + 1 = delay.toNat →
    (∀ e ∈ before, e = .tick ∨ (∃ f, e = .message .other f) ∨ ∃ f, e = .message .sysex f ∧ Spec.Fits s.cfg f) →
    (before.filterMap Spec.sysexBytes).length ≤ s.cfg.bufChunks →
    s.inbox = .command (encode s.cfg (.queryBulk addr size delay)) :: (before ++ .tick :: rest) →
    (∃ u, core.run (before.length + 1) s = .next u ∧ u.fsm = .waitDelay) ∧
    ∃ t, core.run (before.length + 2) s = .next t ∧
      t.fsm = .idle ∧ t.inbox = rest ∧ t.status.done = true ∧ t.status.timeout = false ∧ t.tmr = 0 ∧
      t.out.getLast? =
        some (.result .ok
          (.pairs ((before.filterMap Spec.sysexBytes).map fun f => (Spec.chunkAddr f, Spec.chunkData f))))

/-- R180, the last chunk and the last tick ready together: both orders are runs of the model, and they end differently,
`OK` with the chunk or `TIMEOUT` without it, the chunk then being carry-over. -/
def Obligations.LastChunkAndLastTickRaceBothWays : Prop :=
  ∀ (s : State) (f : List Byte), s.Inv → s.fsm = .waitCount → s.tmr = 1 → s.cnt + 1 = s.tgt →
    verify f = true → Spec.Fits s.cfg f → s.buf.length ≠ s.cfg.bufChunks →
    (s.inbox = [.message .sysex f, .tick] →
      ∃ t v, core.run 2 s = .next t ∧ t.fsm = .idle ∧ t.cnt = s.tgt ∧ t.status.done = true ∧
        t.status.timeout = false ∧ Spec.value s.cmdr (Spec.appended f s).buf = some v ∧
        t.out = s.out ++ [.result .ok v]) ∧
    (s.inbox = [.tick, .message .sysex f] →
      ∃ t v, core.run 2 s = .next t ∧ t.fsm = .idle ∧ t.cnt = s.tgt ∧ t.status.done = false ∧
        t.status.timeout = true ∧ Spec.value s.cmdr s.buf = some v ∧
        t.out = s.out ++ [.report .timeout, .result .timeout v])

/-- R51, R203: what arrives before a query command is discarded by its session reset; the same frame arriving after it is
counted toward the new session, whichever query it answers. -/
def Obligations.StrayFramesCountTowardTheNewSession : Prop :=
  ∀ (s : State) (addr : Quad) (len : BitVec 32) (f : List Byte) (rest : List PortEvent),
    s.fsm = .idle → s.cfg.Legal → len.toNat < 2 ^ 28 → verify f = true → Spec.Fits s.cfg f →
    (s.inbox = .message .sysex f :: .command (encode s.cfg (.queryBytes addr len)) :: rest →
      ∃ t, core.run 2 s = .next t ∧ t.fsm = .waitCount ∧ t.buf = [] ∧ t.cnt = 0) ∧
    (s.inbox = .command (encode s.cfg (.queryBytes addr len)) :: .message .sysex f :: rest →
      ∃ t, core.run 2 s = .next t ∧ t.buf = [⟨Spec.chunkAddr f, Spec.chunkData f, true⟩] ∧ t.cnt = 1 ∧
        (len.toNat < 241 → t.fsm = .idle ∧ t.out.getLast? = some (.result .ok (.bytes (Spec.chunkData f)))) ∧
        (241 ≤ len.toNat → t.fsm = .waitCount))
end

