-- ==== Sys2Proof/Laws/State.lean ====
section
/-! SUPPORT. For each shared operation that writes the state, the value of every field afterwards: the frame and the effect,
one lemma a field, so that no proof unfolds a record update. -/

namespace Sys2Proof.Machine

variable (s : State)

@[simp] theorem emit_cfg (o : Output) : (emit o s).cfg = s.cfg := rfl
@[simp] theorem emit_fsm (o : Output) : (emit o s).fsm = s.fsm := rfl
@[simp] theorem emit_cmdr (o : Output) : (emit o s).cmdr = s.cmdr := rfl
@[simp] theorem emit_tgt (o : Output) : (emit o s).tgt = s.tgt := rfl
@[simp] theorem emit_tgtEn (o : Output) : (emit o s).tgtEn = s.tgtEn := rfl
@[simp] theorem emit_cnt (o : Output) : (emit o s).cnt = s.cnt := rfl
@[simp] theorem emit_tmr (o : Output) : (emit o s).tmr = s.tmr := rfl
@[simp] theorem emit_buf (o : Output) : (emit o s).buf = s.buf := rfl
@[simp] theorem emit_status (o : Output) : (emit o s).status = s.status := rfl
@[simp] theorem emit_inbox (o : Output) : (emit o s).inbox = s.inbox := rfl
@[simp] theorem emit_out (o : Output) : (emit o s).out = s.out ++ [o] := rfl

@[simp] theorem sendFrame_cfg (head : FrameHead) (payload : List Byte) : (sendFrame head payload s).cfg = s.cfg := rfl
@[simp] theorem sendFrame_fsm (head : FrameHead) (payload : List Byte) : (sendFrame head payload s).fsm = s.fsm := rfl
@[simp] theorem sendFrame_cmdr (head : FrameHead) (payload : List Byte) : (sendFrame head payload s).cmdr = s.cmdr := rfl
@[simp] theorem sendFrame_tgt (head : FrameHead) (payload : List Byte) : (sendFrame head payload s).tgt = s.tgt := rfl
@[simp] theorem sendFrame_tgtEn (head : FrameHead) (payload : List Byte) : (sendFrame head payload s).tgtEn = s.tgtEn := rfl
@[simp] theorem sendFrame_cnt (head : FrameHead) (payload : List Byte) : (sendFrame head payload s).cnt = s.cnt := rfl
@[simp] theorem sendFrame_tmr (head : FrameHead) (payload : List Byte) : (sendFrame head payload s).tmr = s.tmr := rfl
@[simp] theorem sendFrame_buf (head : FrameHead) (payload : List Byte) : (sendFrame head payload s).buf = s.buf := rfl
@[simp] theorem sendFrame_status (head : FrameHead) (payload : List Byte) : (sendFrame head payload s).status = s.status := rfl
@[simp] theorem sendFrame_inbox (head : FrameHead) (payload : List Byte) : (sendFrame head payload s).inbox = s.inbox := rfl
@[simp] theorem sendFrame_out (head : FrameHead) (payload : List Byte) : (sendFrame head payload s).out = s.out ++ [.tx (frameBytes head payload)] := rfl

@[simp] theorem raise_cfg (e : ErrorKind) : (raise e s).cfg = s.cfg := rfl
@[simp] theorem raise_fsm (e : ErrorKind) : (raise e s).fsm = s.fsm := rfl
@[simp] theorem raise_cmdr (e : ErrorKind) : (raise e s).cmdr = s.cmdr := rfl
@[simp] theorem raise_tgt (e : ErrorKind) : (raise e s).tgt = s.tgt := rfl
@[simp] theorem raise_tgtEn (e : ErrorKind) : (raise e s).tgtEn = s.tgtEn := rfl
@[simp] theorem raise_cnt (e : ErrorKind) : (raise e s).cnt = s.cnt := rfl
@[simp] theorem raise_tmr (e : ErrorKind) : (raise e s).tmr = s.tmr := rfl
@[simp] theorem raise_buf (e : ErrorKind) : (raise e s).buf = s.buf := rfl
@[simp] theorem raise_status (e : ErrorKind) : (raise e s).status = setErrorFlag e s.status := rfl
@[simp] theorem raise_inbox (e : ErrorKind) : (raise e s).inbox = s.inbox := rfl
@[simp] theorem raise_out (e : ErrorKind) : (raise e s).out = s.out ++ [.report e] := rfl

@[simp] theorem refuse_cfg : (refuse s).cfg = s.cfg := rfl
@[simp] theorem refuse_fsm : (refuse s).fsm = s.fsm := rfl
@[simp] theorem refuse_cmdr : (refuse s).cmdr = s.cmdr := rfl
@[simp] theorem refuse_tgt : (refuse s).tgt = s.tgt := rfl
@[simp] theorem refuse_tgtEn : (refuse s).tgtEn = s.tgtEn := rfl
@[simp] theorem refuse_cnt : (refuse s).cnt = s.cnt := rfl
@[simp] theorem refuse_tmr : (refuse s).tmr = s.tmr := rfl
@[simp] theorem refuse_buf : (refuse s).buf = s.buf := rfl
@[simp] theorem refuse_status : (refuse s).status = { s.status with arg := true } := rfl
@[simp] theorem refuse_inbox : (refuse s).inbox = s.inbox := rfl
@[simp] theorem refuse_out : (refuse s).out = s.out ++ [.report .argument] ++ [.result .refused .absent] := rfl

@[simp] theorem bufClear_cfg : (bufClear s).cfg = s.cfg := rfl
@[simp] theorem bufClear_fsm : (bufClear s).fsm = s.fsm := rfl
@[simp] theorem bufClear_cmdr : (bufClear s).cmdr = s.cmdr := rfl
@[simp] theorem bufClear_tgt : (bufClear s).tgt = s.tgt := rfl
@[simp] theorem bufClear_tgtEn : (bufClear s).tgtEn = s.tgtEn := rfl
@[simp] theorem bufClear_cnt : (bufClear s).cnt = s.cnt := rfl
@[simp] theorem bufClear_tmr : (bufClear s).tmr = s.tmr := rfl
@[simp] theorem bufClear_buf : (bufClear s).buf = [] := rfl
@[simp] theorem bufClear_status : (bufClear s).status = s.status := rfl
@[simp] theorem bufClear_inbox : (bufClear s).inbox = s.inbox := rfl
@[simp] theorem bufClear_out : (bufClear s).out = s.out := rfl

@[simp] theorem bufAppend_cfg (e : Entry) : (bufAppend e s).cfg = s.cfg := rfl
@[simp] theorem bufAppend_fsm (e : Entry) : (bufAppend e s).fsm = s.fsm := rfl
@[simp] theorem bufAppend_cmdr (e : Entry) : (bufAppend e s).cmdr = s.cmdr := rfl
@[simp] theorem bufAppend_tgt (e : Entry) : (bufAppend e s).tgt = s.tgt := rfl
@[simp] theorem bufAppend_tgtEn (e : Entry) : (bufAppend e s).tgtEn = s.tgtEn := rfl
@[simp] theorem bufAppend_cnt (e : Entry) : (bufAppend e s).cnt = s.cnt := rfl
@[simp] theorem bufAppend_tmr (e : Entry) : (bufAppend e s).tmr = s.tmr := rfl
@[simp] theorem bufAppend_buf (e : Entry) : (bufAppend e s).buf = s.buf ++ [e] := rfl
@[simp] theorem bufAppend_status (e : Entry) : (bufAppend e s).status = s.status := rfl
@[simp] theorem bufAppend_inbox (e : Entry) : (bufAppend e s).inbox = s.inbox := rfl
@[simp] theorem bufAppend_out (e : Entry) : (bufAppend e s).out = s.out := rfl

@[simp] theorem countDown_cfg : (countDown s).cfg = s.cfg := rfl
@[simp] theorem countDown_fsm : (countDown s).fsm = s.fsm := rfl
@[simp] theorem countDown_cmdr : (countDown s).cmdr = s.cmdr := rfl
@[simp] theorem countDown_tgt : (countDown s).tgt = s.tgt := rfl
@[simp] theorem countDown_tgtEn : (countDown s).tgtEn = s.tgtEn := rfl
@[simp] theorem countDown_cnt : (countDown s).cnt = s.cnt := rfl
@[simp] theorem countDown_tmr : (countDown s).tmr = s.tmr - 1 := rfl
@[simp] theorem countDown_buf : (countDown s).buf = s.buf := rfl
@[simp] theorem countDown_status : (countDown s).status = s.status := rfl
@[simp] theorem countDown_inbox : (countDown s).inbox = s.inbox := rfl
@[simp] theorem countDown_out : (countDown s).out = s.out := rfl

@[simp] theorem sessionReset_cfg : (sessionReset s).cfg = s.cfg := rfl
@[simp] theorem sessionReset_fsm : (sessionReset s).fsm = s.fsm := rfl
@[simp] theorem sessionReset_cmdr : (sessionReset s).cmdr = s.cmdr := rfl
@[simp] theorem sessionReset_tgt : (sessionReset s).tgt = s.tgt := rfl
@[simp] theorem sessionReset_tgtEn : (sessionReset s).tgtEn = s.tgtEn := rfl
@[simp] theorem sessionReset_cnt : (sessionReset s).cnt = 0 := rfl
@[simp] theorem sessionReset_tmr : (sessionReset s).tmr = s.tmr := rfl
@[simp] theorem sessionReset_buf : (sessionReset s).buf = [] := rfl
@[simp] theorem sessionReset_status : (sessionReset s).status = clearSessionFlags s.status := rfl
@[simp] theorem sessionReset_inbox : (sessionReset s).inbox = s.inbox := rfl
@[simp] theorem sessionReset_out : (sessionReset s).out = s.out := rfl

@[simp] theorem openSession_cfg (k : QueryKind) (g : Option (BitVec 21)) (p : List Byte) : (openSession k g p s).cfg = s.cfg := rfl
@[simp] theorem openSession_fsm (k : QueryKind) (g : Option (BitVec 21)) (p : List Byte) : (openSession k g p s).fsm = s.fsm := rfl
@[simp] theorem openSession_cmdr (k : QueryKind) (g : Option (BitVec 21)) (p : List Byte) : (openSession k g p s).cmdr = k := rfl
@[simp] theorem openSession_tgt (k : QueryKind) (g : Option (BitVec 21)) (p : List Byte) : (openSession k g p s).tgt = g.getD 0 := rfl
@[simp] theorem openSession_tgtEn (k : QueryKind) (g : Option (BitVec 21)) (p : List Byte) : (openSession k g p s).tgtEn = g.isSome := rfl
@[simp] theorem openSession_cnt (k : QueryKind) (g : Option (BitVec 21)) (p : List Byte) : (openSession k g p s).cnt = 0 := rfl
@[simp] theorem openSession_tmr (k : QueryKind) (g : Option (BitVec 21)) (p : List Byte) : (openSession k g p s).tmr = s.tmr := rfl
@[simp] theorem openSession_buf (k : QueryKind) (g : Option (BitVec 21)) (p : List Byte) : (openSession k g p s).buf = [] := rfl
@[simp] theorem openSession_status (k : QueryKind) (g : Option (BitVec 21)) (p : List Byte) : (openSession k g p s).status = Status.clear := rfl
@[simp] theorem openSession_inbox (k : QueryKind) (g : Option (BitVec 21)) (p : List Byte) : (openSession k g p s).inbox = s.inbox := rfl
@[simp] theorem openSession_out (k : QueryKind) (g : Option (BitVec 21)) (p : List Byte) : (openSession k g p s).out = s.out ++ [.tx (frameBytes s.cfg.pfxQuery p)] := rfl

@[simp] theorem openCounted_cfg (k : QueryKind) (g : BitVec 21) (p : List Byte) : (openCounted k g p s).cfg = s.cfg := rfl
@[simp] theorem openCounted_fsm (k : QueryKind) (g : BitVec 21) (p : List Byte) : (openCounted k g p s).fsm = .waitCount := rfl
@[simp] theorem openCounted_cmdr (k : QueryKind) (g : BitVec 21) (p : List Byte) : (openCounted k g p s).cmdr = k := rfl
@[simp] theorem openCounted_tgt (k : QueryKind) (g : BitVec 21) (p : List Byte) : (openCounted k g p s).tgt = g := rfl
@[simp] theorem openCounted_tgtEn (k : QueryKind) (g : BitVec 21) (p : List Byte) : (openCounted k g p s).tgtEn = true := rfl
@[simp] theorem openCounted_cnt (k : QueryKind) (g : BitVec 21) (p : List Byte) : (openCounted k g p s).cnt = 0 := rfl
@[simp] theorem openCounted_tmr (k : QueryKind) (g : BitVec 21) (p : List Byte) : (openCounted k g p s).tmr = 5 := rfl
@[simp] theorem openCounted_buf (k : QueryKind) (g : BitVec 21) (p : List Byte) : (openCounted k g p s).buf = [] := rfl
@[simp] theorem openCounted_status (k : QueryKind) (g : BitVec 21) (p : List Byte) : (openCounted k g p s).status = Status.clear := rfl
@[simp] theorem openCounted_inbox (k : QueryKind) (g : BitVec 21) (p : List Byte) : (openCounted k g p s).inbox = s.inbox := rfl
@[simp] theorem openCounted_out (k : QueryKind) (g : BitVec 21) (p : List Byte) : (openCounted k g p s).out = s.out ++ [.tx (frameBytes s.cfg.pfxQuery p)] := rfl

@[simp] theorem endSessionOk_cfg : (endSessionOk s).cfg = s.cfg := rfl
@[simp] theorem endSessionOk_fsm : (endSessionOk s).fsm = .idle := rfl
@[simp] theorem endSessionOk_cmdr : (endSessionOk s).cmdr = s.cmdr := rfl
@[simp] theorem endSessionOk_tgt : (endSessionOk s).tgt = s.tgt := rfl
@[simp] theorem endSessionOk_tgtEn : (endSessionOk s).tgtEn = s.tgtEn := rfl
@[simp] theorem endSessionOk_cnt : (endSessionOk s).cnt = s.cnt := rfl
@[simp] theorem endSessionOk_tmr : (endSessionOk s).tmr = s.tmr := rfl
@[simp] theorem endSessionOk_buf : (endSessionOk s).buf = s.buf := rfl
@[simp] theorem endSessionOk_status : (endSessionOk s).status = { s.status with done := true } := rfl
@[simp] theorem endSessionOk_inbox : (endSessionOk s).inbox = s.inbox := rfl
@[simp] theorem endSessionOk_out : (endSessionOk s).out = s.out ++ [.result .ok (resultValue s)] := rfl

@[simp] theorem endSessionTimeout_cfg : (endSessionTimeout s).cfg = s.cfg := rfl
@[simp] theorem endSessionTimeout_fsm : (endSessionTimeout s).fsm = .idle := rfl
@[simp] theorem endSessionTimeout_cmdr : (endSessionTimeout s).cmdr = s.cmdr := rfl
@[simp] theorem endSessionTimeout_tgt : (endSessionTimeout s).tgt = s.tgt := rfl
@[simp] theorem endSessionTimeout_tgtEn : (endSessionTimeout s).tgtEn = s.tgtEn := rfl
@[simp] theorem endSessionTimeout_cnt : (endSessionTimeout s).cnt = s.cnt := rfl
@[simp] theorem endSessionTimeout_tmr : (endSessionTimeout s).tmr = s.tmr := rfl
@[simp] theorem endSessionTimeout_buf : (endSessionTimeout s).buf = s.buf := rfl
@[simp] theorem endSessionTimeout_status : (endSessionTimeout s).status = { s.status with timeout := true } := rfl
@[simp] theorem endSessionTimeout_inbox : (endSessionTimeout s).inbox = s.inbox := rfl
@[simp] theorem endSessionTimeout_out : (endSessionTimeout s).out = s.out ++ [.report .timeout] ++ [.result .timeout (resultValue (raise .timeout s))] := rfl

/-! The state after reset (R21). -/

@[simp] theorem resetWith_cfg (c : Config) : (State.resetWith c).cfg = c := rfl
@[simp] theorem resetWith_fsm (c : Config) : (State.resetWith c).fsm = .idle := rfl
@[simp] theorem resetWith_cmdr (c : Config) : (State.resetWith c).cmdr = .none := rfl
@[simp] theorem resetWith_tgt (c : Config) : (State.resetWith c).tgt = 0 := rfl
@[simp] theorem resetWith_tgtEn (c : Config) : (State.resetWith c).tgtEn = false := rfl
@[simp] theorem resetWith_cnt (c : Config) : (State.resetWith c).cnt = 0 := rfl
@[simp] theorem resetWith_tmr (c : Config) : (State.resetWith c).tmr = 0 := rfl
@[simp] theorem resetWith_buf (c : Config) : (State.resetWith c).buf = [] := rfl
@[simp] theorem resetWith_status (c : Config) : (State.resetWith c).status = Status.clear := rfl
@[simp] theorem resetWith_inbox (c : Config) : (State.resetWith c).inbox = [] := rfl
@[simp] theorem resetWith_out (c : Config) : (State.resetWith c).out = [] := rfl

@[simp] theorem reset_eq : State.reset = State.resetWith Config.atReset := rfl

/-! The parameters of the machine at reset. -/

/-- `distinctFrom p` never answers `p`. -/
theorem distinctFrom_ne (p q : FrameHead) : p ≠ Config.distinctFrom p q := by
  unfold Config.distinctFrom
  split
  · next h =>
    subst h
    exact fun e => (by decide : ∀ b : Byte, b ≠ b + 1) _ (congrArg FrameHead.h6 e)
  · exact fun h => ‹¬ q = p› h.symm

/-- `distinctFrom p` answers every other head, so that no pair of prefixes the spec allows is shut out. -/
theorem distinctFrom_of_ne {p q : FrameHead} (h : p ≠ q) : Config.distinctFrom p q = q := if_neg fun e => h e.symm

/-- The parameters at reset are within the spec's bounds. -/
theorem atReset_legal : Config.atReset.Legal :=
  ⟨by decide, by decide, by decide, distinctFrom_ne _ _⟩

end Sys2Proof.Machine
end

