-- ==== Sys2Proof/Laws/Ops.lean ====
section
/-! SUPPORT. One lemma for each shared operation that says everything it can do, for later proofs to cite instead of
unfolding it; and the memory laws: every operation on the chunk buffer keeps its form. -/

namespace Sys2Proof.Machine

/-! ### Holding -/

theorem whenIdle_idle {s t : State} (h : s.fsm = .idle) : whenIdle s t = t := if_pos h

theorem whenIdle_waiting {s t : State} (h : s.fsm ≠ .idle) : whenIdle s t = s := if_neg h

/-! ### The result value -/

/-- The result value reads `CMDR` and the buffer only, wherever a rule gives it. -/
theorem resultValue_congr {s t : State} (hk : s.cmdr = t.cmdr) (hb : s.buf = t.buf) (h : s.cmdr ≠ .none) :
    resultValue s = resultValue t := by
  rw [hk] at h
  unfold resultValue
  rw [hk, hb]
  cases hc : t.cmdr
  case none => exact absurd hc h
  all_goals rfl

/-! ### Ingestion -/

/-- The entry appended and counted, before the completion test. -/
def appendOnly (e : Entry) (s : State) : State := { bufAppend e s with cnt := s.cnt + 1 }

/-- The completion test of R147, on the state before the append. -/
abbrev CompletesWith (s : State) : Prop := s.fsm = .waitCount ∧ s.tgtEn = true ∧ s.cnt + 1 = s.tgt

theorem appendAndTest_completes {e : Entry} {s : State} (h : CompletesWith s) :
    appendAndTest e s = endSessionOk (appendOnly e s) := if_pos h

theorem appendAndTest_continues {e : Entry} {s : State} (h : ¬ CompletesWith s) :
    appendAndTest e s = appendOnly e s := if_neg h

/-- The state after the checksum verdict of a frame is in (R144). -/
def checked (e : Entry) (s : State) : State := if e.ok then s else raise .checksum s

theorem checked_frame (e : Entry) (s : State) :
    (checked e s).cfg = s.cfg ∧ (checked e s).fsm = s.fsm ∧ (checked e s).cmdr = s.cmdr ∧
    (checked e s).tgt = s.tgt ∧ (checked e s).tgtEn = s.tgtEn ∧ (checked e s).cnt = s.cnt ∧
    (checked e s).tmr = s.tmr ∧ (checked e s).buf = s.buf ∧ (checked e s).inbox = s.inbox := by
  unfold checked
  split <;> simp

/-- Everything the ingestion step can do once the fields are known: drop a bad chunk, drop a chunk that does not fit,
or append (R144 to R147). -/
theorem ingestFields_cases (e : Entry) (tooLong : Bool) (s : State) :
    (e.ok = false ∧ s.cfg.dropBadCsum = true ∧ ingestFields e tooLong s = raise .checksum s) ∨
    ((e.ok = true ∨ s.cfg.dropBadCsum = false) ∧ (s.buf.length = s.cfg.bufChunks ∨ tooLong = true) ∧
      ingestFields e tooLong s = raise .overflow (checked e s)) ∨
    ((e.ok = true ∨ s.cfg.dropBadCsum = false) ∧ s.buf.length ≠ s.cfg.bufChunks ∧ tooLong = false ∧
      ingestFields e tooLong s = appendAndTest e (checked e s)) := by
  unfold ingestFields checked bufLen
  cases ho : e.ok <;> cases hd : s.cfg.dropBadCsum <;> by_cases hb : s.buf.length = s.cfg.bufChunks <;>
    cases tooLong <;> simp [hd, hb]

/-- Everything an inbound message can do (R140). -/
theorem ingest_cases (k : MsgKind) (f : List Byte) (s : State) :
    (k = .other ∧ ingest k f s = raise .framingKind s) ∨
    (k = .sysex ∧ f.length < 12 ∧ ingest k f s = raise .framingRunt s) ∨
    (k = .sysex ∧ 12 ≤ f.length ∧
      ingest k f s =
        ingestFields (frameFields f) (s.cfg.bufPayloadMax < (frameFields f).data.length) s) := by
  cases k with
  | other => exact .inl ⟨rfl, rfl⟩
  | sysex =>
    by_cases h : f.length < 12
    · exact .inr (.inl ⟨rfl, h, if_pos h⟩)
    · exact .inr (.inr ⟨rfl, Nat.le_of_not_lt h, if_neg h⟩)

/-! ### Taking an event -/

/-- What is taken from the ports, and what stays: the held commands before it keep their order (R110). -/
theorem takeEvent_some {fsm : Fsm} {l rest : List PortEvent} {e : PortEvent} (h : takeEvent fsm l = some (e, rest)) :
    ∃ held after, l = held ++ e :: after ∧ rest = held ++ after ∧ (∀ c ∈ held, isCommandEvent c = true) ∧
      (fsm = .idle → held = []) ∧ (fsm ≠ .idle → isCommandEvent e = false) := by
  induction l generalizing rest with
  | nil => simp [takeEvent] at h
  | cons x xs ih =>
    unfold takeEvent at h
    split at h
    · next hx =>
      cases hr : takeEvent fsm xs with
      | none => simp [hr] at h
      | some p =>
        obtain ⟨e', rest'⟩ := p
        rw [hr] at h
        simp only [Option.some.injEq, Prod.mk.injEq] at h
        obtain ⟨rfl, rfl⟩ := h
        obtain ⟨held, after, rfl, rfl, hc, _, he⟩ := ih hr
        exact ⟨x :: held, after, rfl, rfl, by simpa using ⟨hx.2, hc⟩, fun hi => absurd hi hx.1, he⟩
    · next hx =>
      simp only [Option.some.injEq, Prod.mk.injEq] at h
      obtain ⟨rfl, rfl⟩ := h
      refine ⟨[], xs, rfl, rfl, by simp, fun _ => rfl, fun hw => ?_⟩
      cases hc : isCommandEvent x with
      | false => rfl
      | true => exact absurd ⟨hw, hc⟩ hx

/-- In a waiting state the commands before the first other event are passed over (R110). -/
theorem takeEvent_held {fsm : Fsm} (hw : fsm ≠ .idle) {held : List PortEvent}
    (hh : ∀ c ∈ held, isCommandEvent c = true) {e : PortEvent} (he : isCommandEvent e = false)
    (after : List PortEvent) : takeEvent fsm (held ++ e :: after) = some (e, held ++ after) := by
  induction held with
  | nil => simp [takeEvent, he]
  | cons x xs ih =>
    have hx := hh x (by simp)
    have := ih fun c hc => hh c (by simp [hc])
    simp [takeEvent, hw, hx, this]

/-- In `IDLE` the first event is taken. -/
@[simp] theorem takeEvent_idle (e : PortEvent) (rest : List PortEvent) :
    takeEvent .idle (e :: rest) = some (e, rest) := by simp [takeEvent]

/-- Nothing is taken exactly when there is nothing at the ports but held commands. -/
theorem takeEvent_none {fsm : Fsm} {l : List PortEvent} (h : takeEvent fsm l = none) :
    ∀ c ∈ l, isCommandEvent c = true := by
  induction l with
  | nil => simp
  | cons x xs ih =>
    unfold takeEvent at h
    split at h
    · next hx =>
      cases hr : takeEvent fsm xs with
      | none =>
        intro c hc
        rcases List.mem_cons.1 hc with rfl | hc
        · exact hx.2
        · exact ih hr c hc
      | some p => simp [hr] at h
    · simp at h

/-- Everything a step can do. -/
theorem step_cases (s : State) :
    (takeEvent s.fsm s.inbox = none ∧ step s = .next s) ∨
    (∃ e rest i, takeEvent s.fsm s.inbox = some (e, rest) ∧ decodeEvent e = .ok i ∧
      step s = exec i { s with inbox := rest }) ∨
    (∃ e rest err, takeEvent s.fsm s.inbox = some (e, rest) ∧ decodeEvent e = .error err ∧
      step s = .next (refuse { s with inbox := rest })) := by
  unfold step
  cases ht : takeEvent s.fsm s.inbox with
  | none => exact .inl ⟨rfl, rfl⟩
  | some p =>
    obtain ⟨e, rest⟩ := p
    cases hd : decodeEvent e with
    | ok i => exact .inr (.inl ⟨e, rest, i, rfl, hd, by simp [hd]⟩)
    | error err => exact .inr (.inr ⟨e, rest, err, rfl, hd, by simp [hd]⟩)

/-! ### The chunk buffer's form -/

theorem Memory.wf_iff {c : Config} {buf : List Entry} :
    Memory.wf c buf = true ↔ buf.length ≤ c.bufChunks ∧ ∀ e ∈ buf, e.data.length ≤ c.bufPayloadMax := by
  simp [Memory.wf]

/-- The buffer after reset, and after a session reset, has the form. -/
theorem Memory.wf_nil (c : Config) : Memory.wf c [] = true := by simp [Memory.wf]

/-- The guarded append of R145 and R146 keeps the form. -/
theorem Memory.wf_append {c : Config} {buf : List Entry} {e : Entry} (h : Memory.wf c buf = true)
    (hroom : buf.length ≠ c.bufChunks) (hfits : e.data.length ≤ c.bufPayloadMax) :
    Memory.wf c (buf ++ [e]) = true := by
  rw [Memory.wf_iff] at *
  refine ⟨by simp; omega, fun x hx => ?_⟩
  rcases List.mem_append.1 hx with hx | hx
  · exact h.2 x hx
  · simp_all

theorem bufClear_wf (s : State) : Memory.wf (bufClear s).cfg (bufClear s).buf = true := Memory.wf_nil _

theorem bufAppend_wf {s : State} {e : Entry} (h : Memory.wf s.cfg s.buf = true)
    (hroom : s.buf.length ≠ s.cfg.bufChunks) (hfits : e.data.length ≤ s.cfg.bufPayloadMax) :
    Memory.wf (bufAppend e s).cfg (bufAppend e s).buf = true := Memory.wf_append h hroom hfits

theorem resetWith_wf (c : Config) : Memory.wf (State.resetWith c).cfg (State.resetWith c).buf = true := Memory.wf_nil _

theorem appendAndTest_wf {s : State} {e : Entry} (h : Memory.wf s.cfg s.buf = true)
    (hroom : s.buf.length ≠ s.cfg.bufChunks) (hfits : e.data.length ≤ s.cfg.bufPayloadMax) :
    Memory.wf (appendAndTest e s).cfg (appendAndTest e s).buf = true := by
  by_cases hc : CompletesWith s
  · rw [appendAndTest_completes hc]
    exact Memory.wf_append h hroom hfits
  · rw [appendAndTest_continues hc]
    exact Memory.wf_append h hroom hfits

/-- The ingestion step keeps the form: it appends only where there is room, and only data that fits. -/
theorem ingest_wf (k : MsgKind) (f : List Byte) {s : State} (h : Memory.wf s.cfg s.buf = true) :
    Memory.wf (ingest k f s).cfg (ingest k f s).buf = true := by
  rcases ingest_cases k f s with ⟨_, hi⟩ | ⟨_, _, hi⟩ | ⟨_, _, hi⟩
  · rw [hi]; simpa using h
  · rw [hi]; simpa using h
  rw [hi]
  obtain ⟨hc, _, _, _, _, _, _, hb, _⟩ := checked_frame (frameFields f) s
  rcases ingestFields_cases (frameFields f) (s.cfg.bufPayloadMax < (frameFields f).data.length) s with
    ⟨_, _, hf⟩ | ⟨_, _, hf⟩ | ⟨_, hroom, hlong, hf⟩
  · rw [hf]; simpa using h
  · rw [hf]; simpa [hc, hb] using h
  · rw [hf]
    exact appendAndTest_wf (by rw [hc, hb]; exact h) (by rw [hc, hb]; exact hroom) (by rw [hc]; simpa using hlong)

end Sys2Proof.Machine
end

