-- ==== Sys2Proof/Laws/PerInstr.lean ====
section
/-! SUPPORT. Laws of every operation, one lemma a constructor. Family `Length`: the total lengths of R61 to R63 and R68. -/

namespace Sys2Proof.Laws

/-- The total length the spec gives an operation's bytes (R61 to R63, R68, R70). -/
def Length.ofInstr : Instr → Nat
  | .sendStore _ data => 5 + data.length
  | .queryBytes _ _ => 9
  | .queryByte _ _ => 9
  | .queryRange _ _ => 9
  | .queryBulk _ _ _ => 11
  | .rxMsg _ msg => 2 + msg.length
  | .tick => 1
  | .reset => 1
  | .frameStore _ data => 12 + data.length
  | .frameQuery _ _ => 16
  | .frameChunk _ _ data _ => 12 + data.length

/-- The encoder writes exactly that many bytes, whatever the parameters. -/
def Length.Statement (i : Instr) : Prop := ∀ c : Config, (encode c i).length = Length.ofInstr i

theorem Length.sendStore (addr : Quad) (data : List Byte) : Length.Statement (.sendStore addr data) := by
  intro c; simp [encode, Machine.quadBytes, Length.ofInstr]; omega

theorem Length.queryBytes (addr : Quad) (len : BitVec 32) : Length.Statement (.queryBytes addr len) := by
  intro c; rfl

theorem Length.queryByte (base : Quad) (off : BitVec 32) : Length.Statement (.queryByte base off) := by
  intro c; rfl

theorem Length.queryRange (first last : Quad) : Length.Statement (.queryRange first last) := by
  intro c; rfl

theorem Length.queryBulk (addr size : Quad) (delay : BitVec 16) : Length.Statement (.queryBulk addr size delay) := by
  intro c; rfl

theorem Length.rxMsg (kind : MsgKind) (msg : List Byte) : Length.Statement (.rxMsg kind msg) := by
  intro c; simp [encode, Length.ofInstr]; omega

theorem Length.tick : Length.Statement .tick := by
  intro c; rfl

theorem Length.reset : Length.Statement .reset := by
  intro c; rfl

theorem Length.frameStore (addr : Quad) (data : List Byte) : Length.Statement (.frameStore addr data) := by
  intro c; simp [encode, Machine.frameBytes, Machine.headBytes, Machine.quadBytes, Length.ofInstr]; omega

theorem Length.frameQuery (addr length : Quad) : Length.Statement (.frameQuery addr length) := by
  intro c; rfl

theorem Length.frameChunk (head : FrameHead) (addr : Quad) (data : List Byte) (csum : Byte) :
    Length.Statement (.frameChunk head addr data csum) := by
  intro c; simp [encode, Machine.headBytes, Machine.quadBytes, Length.ofInstr]; omega

end Sys2Proof.Laws
end

