-- ==== Sys2Proof/Tests/Slice0.lean ====
section
/-! SUPPORT. The model's own tests: ill-formed operations refused, words written out bit by bit from the spec, vectors of
`95_test_vectors.md` one step at a time, and for every obligation with hypotheses a state and operands that meet them.
Every expected value is the spec's. -/

namespace Sys2Proof.Tests

open Machine

/-! ### What the tests share -/

/-- The parameters of `95_test_vectors.md`; the prefixes are any that differ. -/
def cfg : Config :=
  { pfxStore := ⟨0x53, 0x53, 0x53, 0x53, 0x53, 0x53, 0x53⟩, pfxQuery := ⟨0x51, 0x51, 0x51, 0x51, 0x51, 0x51, 0x51⟩,
    tickPeriod := 1, bufChunks := 8, bufPayloadMax := 241, txDataMax := 256, dropBadCsum := false }

/-- `PS`, `PQ` and `P?` of `95_test_vectors.md`. -/
def ps : List Byte := [0x53, 0x53, 0x53, 0x53, 0x53, 0x53, 0x53]
def pq : List Byte := [0x51, 0x51, 0x51, 0x51, 0x51, 0x51, 0x51]
def px : List Byte := [0x50, 0x50, 0x50, 0x50, 0x50, 0x50, 0x50]

/-- The state after reset with those parameters. -/
def start : State := State.resetWith cfg

/-- The start state of section 4: after `QBYTES 00 00 00 00 , 300`, its query frame not recorded. -/
def waiting : State := { start with fsm := .waitCount, cmdr := .queryBytes, tgt := 2, tgtEn := true, tmr := 5 }

/-- A bulk query with three ticks to go. -/
def bulk : State := { start with fsm := .waitDelay, cmdr := .queryBulk, tmr := 3 }

/-- `P? 00 00 00 00 01 7F` and `P? 00 00 00 01 02 7D`, of section 4, and the first with a bad checksum. -/
def chunk1 : List Byte := px ++ [0x00, 0x00, 0x00, 0x00, 0x01, 0x7F]
def chunk2 : List Byte := px ++ [0x00, 0x00, 0x00, 0x01, 0x02, 0x7D]
def badChunk : List Byte := px ++ [0x00, 0x00, 0x00, 0x00, 0x01, 0x7E]

/-- The section 4 state with the first of its two chunks in. -/
def oneIn : State := { waiting with buf := [⟨⟨0, 0, 0, 0⟩, [0x01], true⟩], cnt := 1 }

/-- What `f` shows of the state that an outcome goes on with. -/
def look {α : Type} (f : State → α) : Host.Outcome State Fault Refusal → Option α
  | .next t => some (f t)
  | .fault _ => none
  | .refused _ => none

/-- One step with one event at the ports. -/
def after (e : PortEvent) (s : State) : Host.Outcome State Fault Refusal := step { s with inbox := [e] }

/-- What a row of section 3 gives: the codes of `FSM` and `CMDR`, `TGT`, `TGT_EN`, `TMR`, `STATUS`, and the outputs. -/
structure Row where
  fsm : BitVec 2
  cmdr : BitVec 3
  tgt : BitVec 21
  tgtEn : Bool
  tmr : BitVec 16
  status : Byte
  out : List Output
  deriving DecidableEq

/-- The row that a state is. -/
def row (s : State) : Row := ⟨fsmCode s.fsm, cmdrCode s.cmdr, s.tgt, s.tgtEn, s.tmr, s.statusByte, s.out⟩

/-! ### WellFormed: an ill-formed operation for each check (R69, R61) -/

theorem test_wf_store_too_long : Instr.wellFormed { cfg with txDataMax := 2 } (.sendStore ⟨0, 0, 0, 0⟩ [1, 2, 3]) = false := by
  decide
theorem test_wf_len_out_of_range : Instr.wellFormed cfg (.queryBytes ⟨0, 0, 0, 0⟩ 268435456) = false := by decide
theorem test_wf_base_no_digit : Instr.wellFormed cfg (.queryByte ⟨0, 0, 0, 0x80⟩ 0) = false := by decide
theorem test_wf_address_below : Instr.wellFormed cfg (.queryByte ⟨0, 0, 0, 0⟩ 0xFFFFFFFF) = false := by decide
theorem test_wf_address_above : Instr.wellFormed cfg (.queryByte ⟨0x7F, 0x7F, 0x7F, 0x7F⟩ 1) = false := by decide
theorem test_wf_first_no_digit : Instr.wellFormed cfg (.queryRange ⟨0x80, 0, 0, 0⟩ ⟨0, 0, 0, 1⟩) = false := by decide
theorem test_wf_last_no_digit : Instr.wellFormed cfg (.queryRange ⟨0, 0, 0, 0⟩ ⟨0, 0, 0x80, 0⟩) = false := by decide
theorem test_wf_span_empty : Instr.wellFormed cfg (.queryRange ⟨0, 0, 0, 1⟩ ⟨0, 0, 0, 0⟩) = false := by decide
theorem test_wf_span_too_long :
    Instr.wellFormed cfg (.queryRange ⟨0, 0, 0, 0⟩ ⟨0x7F, 0x7F, 0x7F, 0x7F⟩) = false := by decide
theorem test_wf_frame_too_long :
    Instr.wellFormed { cfg with txDataMax := 2 } (.frameStore ⟨0, 0, 0, 0⟩ [1, 2, 3]) = false := by decide
theorem test_wf_accepts :
    Instr.wellFormed cfg (.queryBytes ⟨0xFF, 0, 0, 0⟩ 268435455) = true ∧
    Instr.wellFormed cfg (.queryByte ⟨0x7F, 0x7F, 0x7F, 0x7F⟩ 0) = true ∧
    Instr.wellFormed cfg (.queryRange ⟨0, 0, 0, 1⟩ ⟨0x7F, 0x7F, 0x7F, 0x7F⟩) = true := by decide

/-! ### Decoding: words written out from R61 to R63, R68 and R70, one for each constructor at least -/

theorem test_decode_sendStore :
    decodeCommand [0x01, 0x60, 0x00, 0x00, 0x21, 0x32] = .ok (.sendStore ⟨0x60, 0x00, 0x00, 0x21⟩ [0x32]) := by rfl
theorem test_decode_queryBytes :
    decodeCommand [0x02, 0x60, 0x00, 0x12, 0x00, 0x00, 0x00, 0x01, 0xE2] =
      .ok (.queryBytes ⟨0x60, 0x00, 0x12, 0x00⟩ 482) := by rfl
theorem test_decode_queryByte :
    decodeCommand [0x03, 0x60, 0x00, 0x06, 0x50, 0xFF, 0xFF, 0xFF, 0xFE] =
      .ok (.queryByte ⟨0x60, 0x00, 0x06, 0x50⟩ (-2)) := by rfl
theorem test_decode_queryRange :
    decodeCommand [0x04, 0x01, 0x02, 0x03, 0x04, 0x05, 0x06, 0x07, 0x08] =
      .ok (.queryRange ⟨1, 2, 3, 4⟩ ⟨5, 6, 7, 8⟩) := by rfl
theorem test_decode_queryBulk :
    decodeCommand [0x05, 0x01, 0x02, 0x03, 0x04, 0x05, 0x06, 0x07, 0x08, 0x01, 0x14] =
      .ok (.queryBulk ⟨1, 2, 3, 4⟩ ⟨5, 6, 7, 8⟩ 276) := by rfl
theorem test_decode_rxMsg :
    decode cfg .trace [0x10, 0x01, 0x50, 0x51] = .ok (.rxMsg .sysex [0x50, 0x51]) ∧
    decode cfg .trace [0x10, 0x00] = .ok (.rxMsg .other []) := ⟨rfl, rfl⟩
theorem test_decode_tick : decode cfg .trace [0x11] = .ok .tick := by rfl
theorem test_decode_reset : decode cfg .trace [0x1F] = .ok .reset := by rfl
theorem test_decode_frameStore :
    decode cfg .outbound (ps ++ [0x60, 0x00, 0x00, 0x21, 0x32, 0x4D]) = .ok (.frameStore ⟨0x60, 0, 0, 0x21⟩ [0x32]) := by rfl
theorem test_decode_frameQuery :
    decode cfg .outbound (pq ++ [0x60, 0x00, 0x12, 0x00, 0x00, 0x00, 0x03, 0x62, 0x29]) =
      .ok (.frameQuery ⟨0x60, 0, 0x12, 0⟩ ⟨0, 0, 3, 0x62⟩) := by rfl
theorem test_decode_frameChunk :
    decode cfg .inbound chunk1 = .ok (.frameChunk ⟨0x50, 0x50, 0x50, 0x50, 0x50, 0x50, 0x50⟩ ⟨0, 0, 0, 0⟩ [0x01] 0x7F) := by rfl

/-- R72: what is no encoding is rejected by name. -/
theorem test_decode_rejects :
    decodeCommand [] = .error .emptyCommand ∧
    decodeCommand [0x06, 0x00, 0x00, 0x00, 0x00] = .error (.unknownCode 0x06) ∧
    decodeCommand [0x00] = .error (.unknownCode 0x00) ∧
    decodeCommand [0x01, 0x00, 0x00, 0x00] = .error (.wrongLength 0x01) ∧
    decodeCommand [0x02, 0x60, 0x00, 0x12, 0x00, 0x00, 0x00, 0x01] = .error (.wrongLength 0x02) ∧
    decode cfg .outbound (ps ++ [0x60, 0x00, 0x00, 0x21, 0x32, 0x4C]) = .error .frameChecksum ∧
    decode cfg .outbound (px ++ [0x60, 0x00, 0x00, 0x21, 0x32, 0x4D]) = .error .frameHead ∧
    decode cfg .outbound (pq ++ [0x60, 0x00, 0x00, 0x21, 0x32, 0x4D]) = .error .frameLength ∧
    decode cfg .inbound (px ++ [0x00, 0x00, 0x01, 0x00]) = .error .frameTooShort :=
  ⟨rfl, rfl, rfl, rfl, rfl, rfl, rfl, rfl, rfl⟩

/-- The rows of the opcode table that give bits, each as its fixed bits and zeros, run as the first operation after
reset. -/
theorem test_table_words :
    decodeTableWord 8 0x01 = some (.sendStore ⟨0, 0, 0, 0⟩ []) ∧
    decodeTableWord 8 0x02 = some (.queryBytes ⟨0, 0, 0, 0⟩ 0) ∧
    decodeTableWord 8 0x03 = some (.queryByte ⟨0, 0, 0, 0⟩ 0) ∧
    decodeTableWord 8 0x04 = some (.queryRange ⟨0, 0, 0, 0⟩ ⟨0, 0, 0, 0⟩) ∧
    decodeTableWord 8 0x05 = some (.queryBulk ⟨0, 0, 0, 0⟩ ⟨0, 0, 0, 0⟩ 0) ∧
    decodeTableWord 8 0x10 = some (.rxMsg .other []) ∧
    decodeTableWord 8 0x11 = some .tick ∧ decodeTableWord 8 0x1F = some .reset ∧
    decodeTableWord 48 0x322100006001 = some (.sendStore ⟨0x60, 0, 0, 0x21⟩ [0x32]) ∧
    decodeTableWord 8 0x06 = none := by decide

theorem test_fetch_after_reset :
    look (fun t => (t.fsm, t.inbox, t.out.length)) (step (State.reset.withFetchWord 8 0x02)) =
      some (.waitCount, [], 1) ∧
    look (fun t => (t.fsm, t.inbox, t.out)) (step (State.reset.withFetchWord 8 0x10)) =
      some (.idle, [], [.report .framingKind]) := by decide

/-! ### The arithmetic units (section 2) -/

theorem test_checksum :
    checksum [] = 0 ∧ checksum [0x20] = 0x60 ∧ checksum [0x40, 0x40] = 0 ∧ checksum [0x80] = 0 ∧
    checksum [0xFF, 0x01] = 0 ∧ checksum [0x01] = 0x7F ∧ checksum [0x7F] = 0x01 ∧
    checksum [0x60, 0x00, 0x00, 0x21, 0x32] = 0x4D ∧ checksum [0x00, 0x00, 0x00, 0x00, 0x7F, 0x7F, 0x7F, 0x7F] = 0x04 := by
  decide
theorem test_verify :
    verify (px ++ [0x60, 0x00, 0x00, 0x21, 0x32, 0x4D]) = true ∧
    verify (px ++ [0x60, 0x00, 0x00, 0x21, 0x32, 0x4C]) = false ∧
    verify (px ++ [0x60, 0x00, 0x00, 0x21, 0x32, 0xCD]) = false ∧
    verify (px ++ [0x00, 0x00, 0x01, 0x00, 0x7F]) = true := by decide
theorem test_scalar :
    encodeScalar 129 = ⟨0, 0, 1, 1⟩ ∧ encodeScalar 1000000 = ⟨0, 0x3D, 4, 0x40⟩ ∧
    encodeScalar 2097151 = ⟨0, 0x7F, 0x7F, 0x7F⟩ ∧ decodeScalar ⟨0x60, 0, 6, 0x50⟩ = 201327440 := by decide
theorem test_effectiveAddress :
    effectiveAddress ⟨0, 0x7F, 0x7F, 0x7F⟩ 1 = some ⟨1, 0, 0, 0⟩ ∧
    effectiveAddress ⟨0, 0, 1, 0⟩ (-1) = some ⟨0, 0, 0, 0x7F⟩ ∧
    effectiveAddress ⟨0, 0, 0, 0⟩ (-1) = none ∧ effectiveAddress ⟨0x7F, 0x7F, 0x7F, 0x7F⟩ 1 = none ∧
    effectiveAddress ⟨0, 0, 0, 0⟩ 268435455 = some ⟨0x7F, 0x7F, 0x7F, 0x7F⟩ := by decide
theorem test_span :
    span ⟨0x60, 0, 0, 0⟩ ⟨0x60, 0, 7, 0x4F⟩ = some 976 ∧ targetChunks 976 = 5 ∧
    span ⟨0, 0, 0, 0⟩ ⟨0x7F, 0x7F, 0x7F, 0x7F⟩ = none ∧ span ⟨0, 0, 0, 1⟩ ⟨0, 0, 0, 0⟩ = none := by decide

/-! ### The commands (section 3), each as its bytes on the command port -/

theorem test_sendStore :
    look row (after (.command [0x01, 0x60, 0x00, 0x00, 0x21, 0x32]) start) =
      some ⟨0, 0, 0, false, 0, 0x00, [.tx (ps ++ [0x60, 0x00, 0x00, 0x21, 0x32, 0x4D])]⟩ := by decide
theorem test_sendStore_sentinel :
    look (fun t => t.out) (after (.command [0x01, 0xFF, 0x00, 0x00, 0x00, 0x14]) start) =
      some [.tx (ps ++ [0xFF, 0x00, 0x00, 0x00, 0x14, 0x6D])] := by decide
theorem test_queryBytes :
    look row (after (.command [0x02, 0x60, 0x00, 0x12, 0x00, 0x00, 0x00, 0x01, 0xE2]) start) =
      some ⟨1, 2, 3, true, 5, 0x01,
        [.tx (pq ++ [0x60, 0x00, 0x12, 0x00, 0x00, 0x00, 0x03, 0x62, 0x29])]⟩ := by decide
theorem test_queryBytes_refused :
    look row (after (.command [0x02, 0x00, 0x00, 0x00, 0x00, 0x10, 0x00, 0x00, 0x00]) start) =
      some ⟨0, 0, 0, false, 0, 0x80, [.report .argument, .result .refused .absent]⟩ := by decide
theorem test_queryByte :
    look row (after (.command [0x03, 0x60, 0x00, 0x06, 0x50, 0x00, 0x00, 0x00, 0x03]) start) =
      some ⟨1, 3, 1, true, 5, 0x01,
        [.tx (pq ++ [0x60, 0x00, 0x06, 0x53, 0x00, 0x00, 0x00, 0x01, 0x46])]⟩ := by decide
theorem test_queryByte_refused :
    look row (after (.command [0x03, 0x00, 0x00, 0x00, 0x80, 0x00, 0x00, 0x00, 0x00]) start) =
      some ⟨0, 0, 0, false, 0, 0x80, [.report .argument, .result .refused .absent]⟩ := by decide
theorem test_queryRange :
    look row (after (.command [0x04, 0x00, 0x00, 0x00, 0x00, 0x00, 0x00, 0x03, 0x60]) start) =
      some ⟨1, 4, 2, true, 5, 0x01,
        [.tx (pq ++ [0x00, 0x00, 0x00, 0x00, 0x00, 0x00, 0x03, 0x61, 0x1C])]⟩ := by decide
theorem test_queryRange_refused :
    look row (after (.command [0x04, 0x00, 0x00, 0x03, 0x60, 0x00, 0x00, 0x00, 0x00]) start) =
      some ⟨0, 0, 0, false, 0, 0x80, [.report .argument, .result .refused .absent]⟩ := by decide
theorem test_queryBulk :
    look row
        (after (.command [0x05, 0x00, 0x00, 0x00, 0x00, 0x7F, 0x7F, 0x7F, 0x7F, 0x00, 0x14]) start) =
      some ⟨2, 5, 0, false, 20, 0x01,
        [.tx (pq ++ [0x00, 0x00, 0x00, 0x00, 0x7F, 0x7F, 0x7F, 0x7F, 0x04])]⟩ := by decide
theorem test_queryBulk_no_delay :
    look row
        (after (.command [0x05, 0x00, 0x00, 0x00, 0x00, 0x7F, 0x7F, 0x7F, 0x7F, 0x00, 0x00]) start) =
      some ⟨0, 5, 0, false, 0, 0x02,
        [.tx (pq ++ [0x00, 0x00, 0x00, 0x00, 0x7F, 0x7F, 0x7F, 0x7F, 0x04]), .result .ok (.pairs [])]⟩ := by decide
theorem test_unknown_code_refused :
    look row (after (.command [0x06, 0x00, 0x00, 0x00, 0x00]) start) =
      some ⟨0, 0, 0, false, 0, 0x80, [.report .argument, .result .refused .absent]⟩ := by decide
theorem test_command_held :
    look (fun t => t) (after (.command [0x01, 0x60, 0x00, 0x00, 0x21, 0x32]) waiting) =
      some { waiting with inbox := [.command [0x01, 0x60, 0x00, 0x00, 0x21, 0x32]] } := by decide

/-! ### Messages, ticks and reset (section 4) -/

theorem test_rxMsg_bad_checksum :
    look (fun t => (t.buf, t.cnt, t.statusByte, t.out)) (after (.message .sysex badChunk) waiting) =
      some ([⟨⟨0, 0, 0, 0⟩, [0x01], false⟩], 1, 0x41, [.report .checksum]) := by decide
theorem test_rxMsg_completes :
    look (fun t => (t.fsm, t.cnt, t.statusByte, t.out)) (after (.message .sysex chunk2) oneIn) =
      some (.idle, 2, 0x02, [.result .ok (.bytes [0x01, 0x02])]) := by decide
theorem test_rxMsg_overflow :
    look (fun t => (t.fsm, t.cnt, t.statusByte, t.out))
        (after (.message .sysex chunk2) { oneIn with cfg := { cfg with bufChunks := 1 } }) =
      some (.waitCount, 1, 0x21, [.report .overflow]) := by decide
theorem test_tick :
    look (fun t => (t.fsm, t.tmr, t.statusByte, t.out)) (after .tick { waiting with tmr := 1 }) =
      some (.idle, 0, 0x04, [.report .timeout, .result .timeout (.bytes [])]) := by decide
theorem test_tick_bulk :
    look (fun t => (t.fsm, t.tmr, t.statusByte, t.out)) (after .tick { bulk with tmr := 1 }) =
      some (.idle, 0, 0x02, [.result .ok (.pairs [])]) := by decide
theorem test_reset : look (fun t => t) (after .reset oneIn) = some start := by decide
theorem test_frameStore :
    look (fun t => t.out) (exec (.frameStore ⟨0x60, 0, 0, 0x21⟩ [0x32]) start) =
      some [.tx (ps ++ [0x60, 0x00, 0x00, 0x21, 0x32, 0x4D])] := by decide
theorem test_frameQuery :
    look (fun t => t.out) (exec (.frameQuery ⟨0x60, 0, 0x12, 0⟩ ⟨0, 0, 3, 0x62⟩) start) =
      some [.tx (pq ++ [0x60, 0x00, 0x12, 0x00, 0x00, 0x00, 0x03, 0x62, 0x29])] := by decide
theorem test_frameChunk :
    look (fun t => (t.buf, t.cnt))
        (exec (.frameChunk ⟨0x50, 0x50, 0x50, 0x50, 0x50, 0x50, 0x50⟩ ⟨0, 0, 1, 0⟩ [] 0x7F) start) =
      some ([⟨⟨0, 0, 1, 0⟩, [], true⟩], 1) := by decide
theorem test_serial_receiver :
    look (fun t => (t.buf, t.cnt, t.statusByte, t.out)) (.next (rxSerial .sysex badChunk waiting)) =
      some ([⟨⟨0, 0, 0, 0⟩, [0x01], false⟩], 1, 0x41, [.report .checksum]) := by decide

/-! ### For every obligation with hypotheses, a state and operands that meet them; each clause at the ends of its range -/

theorem inv_oneIn : oneIn.Inv := by constructor <;> decide

theorem witness_ChecksumIsNegatedSumModulo128 : List.Perm [0x01#8, 0x80#8] [0x80#8, 0x01#8] := by decide

theorem witness_VerifyChecksInboundPayload_digit :
    12 ≤ (px ++ [0, 0, 0, 0, 0x7F] : List Byte).length ∧ (px ++ [0, 0, 0, 0, 0x7F]).getLast? = some 0x7F ∧
    (0x7F#8).toNat < 128 := by decide
theorem witness_VerifyChecksInboundPayload_high :
    12 ≤ (px ++ [0, 0, 0, 0, 0x80] : List Byte).length ∧ (px ++ [0, 0, 0, 0, 0x80]).getLast? = some 0x80 ∧
    128 ≤ (0x80#8).toNat := by decide

theorem witness_DecodeScalarWeighsDigits : Spec.Digits ⟨0x7F, 0, 0x7F, 0⟩ := by unfold Spec.Digits; decide
theorem witness_DecodeScalarWeighsDigits_refused : start.fsm = .idle ∧ ¬ Spec.Digits ⟨0, 0, 0, 0x80⟩ := by
  unfold Spec.Digits; decide

theorem witness_ScalarRoundTripIsExact : Spec.Digits ⟨0, 0, 0, 0⟩ ∧ Spec.Digits ⟨0x7F, 0x7F, 0x7F, 0x7F⟩ := by
  unfold Spec.Digits; decide

theorem witness_EffectiveAddressIsExactSum_below :
    Spec.Digits ⟨0, 0, 0, 0⟩ ∧ (Spec.weight ⟨0, 0, 0, 0⟩ : Int) + (0xFFFFFFFF#32).toInt < 0 ∧ start.fsm = .idle := by
  unfold Spec.Digits Spec.weight; decide
theorem witness_EffectiveAddressIsExactSum_above :
    Spec.Digits ⟨0x7F, 0x7F, 0x7F, 0x7F⟩ ∧
    268435455 < (Spec.weight ⟨0x7F, 0x7F, 0x7F, 0x7F⟩ : Int) + (1#32).toInt := by
  unfold Spec.Digits Spec.weight; decide
theorem witness_EffectiveAddressIsExactSum_least :
    Spec.Digits ⟨0, 0, 0, 1⟩ ∧ 0 ≤ (Spec.weight ⟨0, 0, 0, 1⟩ : Int) + (0xFFFFFFFF#32).toInt ∧
    (Spec.weight ⟨0, 0, 0, 1⟩ : Int) + (0xFFFFFFFF#32).toInt ≤ 268435455 := by
  unfold Spec.Digits Spec.weight; decide
theorem witness_EffectiveAddressIsExactSum_most :
    Spec.Digits ⟨0, 0, 0, 0⟩ ∧ 0 ≤ (Spec.weight ⟨0, 0, 0, 0⟩ : Int) + (268435455#32).toInt ∧
    (Spec.weight ⟨0, 0, 0, 0⟩ : Int) + (268435455#32).toInt ≤ 268435455 := by
  unfold Spec.Digits Spec.weight; decide

theorem witness_TargetChunksCountsOneMoreThanWholeChunks : (241#28).toNat % 241 = 0 ∧ (0#28).toNat % 241 = 0 := by decide

theorem witness_SpanCountsBothEnds_backwards :
    Spec.Digits ⟨0, 0, 0, 1⟩ ∧ Spec.Digits ⟨0, 0, 0, 0⟩ ∧ Spec.weight ⟨0, 0, 0, 0⟩ < Spec.weight ⟨0, 0, 0, 1⟩ ∧
    start.fsm = .idle := by
  unfold Spec.Digits Spec.weight; decide
theorem witness_SpanCountsBothEnds_whole_space :
    Spec.Digits ⟨0, 0, 0, 0⟩ ∧ Spec.Digits ⟨0x7F, 0x7F, 0x7F, 0x7F⟩ ∧
    Spec.weight ⟨0x7F, 0x7F, 0x7F, 0x7F⟩ - Spec.weight ⟨0, 0, 0, 0⟩ + 1 = 268435456 := by
  unfold Spec.Digits Spec.weight; decide
theorem witness_SpanCountsBothEnds_longest :
    Spec.Digits ⟨0, 0, 0, 1⟩ ∧ Spec.Digits ⟨0x7F, 0x7F, 0x7F, 0x7F⟩ ∧
    Spec.weight ⟨0, 0, 0, 1⟩ ≤ Spec.weight ⟨0x7F, 0x7F, 0x7F, 0x7F⟩ ∧
    Spec.weight ⟨0x7F, 0x7F, 0x7F, 0x7F⟩ - Spec.weight ⟨0, 0, 0, 1⟩ + 1 ≤ 268435455 := by
  unfold Spec.Digits Spec.weight; decide

theorem witness_SpanCountsBothEnds_equal : Spec.Digits ⟨0x7F, 0x7F, 0x7F, 0x7F⟩ := by unfold Spec.Digits; decide

theorem witness_ResultAssemblyKeepsArrivalOrder :
    List.map Entry.data [⟨⟨0, 0, 0, 0⟩, [1], true⟩] = List.map Entry.data [⟨⟨1, 0, 0, 0⟩, [1], false⟩] := by decide

theorem witness_DecodeUndoesEncode :
    Instr.channel (.frameStore ⟨0, 0, 0, 0⟩ []) = .outbound ∧ cfg.pfxStore ≠ cfg.pfxQuery ∧
    Instr.wellFormed cfg (.frameStore ⟨0, 0, 0, 0⟩ []) = true := by decide
theorem witness_EncodeUndoesDecode :
    decode cfg .trace [0x11] = .ok .tick ∧
    decode cfg .outbound (ps ++ [0, 0, 0, 0, 0]) = .ok (.frameStore ⟨0, 0, 0, 0⟩ []) ∧
    decode cfg .inbound chunk1 = .ok (.frameChunk ⟨0x50, 0x50, 0x50, 0x50, 0x50, 0x50, 0x50⟩ ⟨0, 0, 0, 0⟩ [0x01] 0x7F) :=
  ⟨rfl, rfl, rfl⟩

theorem witness_SendStoreSendsOneFrame :
    start.fsm = .idle ∧ ([] : List Byte).length ≤ start.cfg.txDataMax := by decide
theorem witness_SendStoreSendsOneFrame_too_long :
    ({ start with cfg := { cfg with txDataMax := 0 } } : State).fsm = .idle ∧
    ({ start with cfg := { cfg with txDataMax := 0 } } : State).cfg.txDataMax < ([0] : List Byte).length := by decide
theorem witness_SendStoreSendsOneFrame_too_short :
    ({ start with inbox := [.command [0x01, 0, 0, 0]] } : State).fsm = .idle ∧
    ({ start with inbox := [.command [0x01, 0, 0, 0]] } : State).inbox = [.command (0x01 :: [0, 0, 0])] ∧
    ([0, 0, 0] : List Byte).length < 4 := by decide
theorem witness_QueryBytesOpensACountedSession :
    start.fsm = .idle ∧ (268435455#32).toNat < 2 ^ 28 ∧ 2 ^ 28 ≤ (268435456#32).toNat := by decide
theorem witness_QueryByteReadsTheEffectiveAddress :
    start.fsm = .idle ∧ Spec.Digits ⟨0x7F, 0x7F, 0x7F, 0x7F⟩ ∧
    effectiveAddress ⟨0x7F, 0x7F, 0x7F, 0x7F⟩ 0 = some ⟨0x7F, 0x7F, 0x7F, 0x7F⟩ ∧ ¬ Spec.Digits ⟨0x80, 0, 0, 0⟩ ∧
    effectiveAddress ⟨0x7F, 0x7F, 0x7F, 0x7F⟩ 1 = none := by
  unfold Spec.Digits; decide
theorem witness_QueryRangeReadsTheSpan :
    start.fsm = .idle ∧ Spec.Digits ⟨0, 0, 0, 1⟩ ∧ Spec.Digits ⟨0x7F, 0x7F, 0x7F, 0x7F⟩ ∧
    span ⟨0, 0, 0, 1⟩ ⟨0x7F, 0x7F, 0x7F, 0x7F⟩ = some 268435455 ∧
    ¬ (Spec.Digits ⟨0, 0, 0, 1⟩ ∧ Spec.Digits ⟨0, 0, 0, 0x80⟩) ∧ Spec.Digits ⟨0, 0, 0, 0⟩ ∧
    span ⟨0, 0, 0, 1⟩ ⟨0, 0, 0, 0⟩ = none := by
  unfold Spec.Digits; decide
theorem witness_QueryBulkWaitsItsDelay :
    start.fsm = .idle ∧ (1#16) ≠ 0 ∧ (0#16) = 0 := by decide
theorem witness_QueryBulkWaitsItsDelay_wrong_length :
    ({ start with inbox := [.command [0x05]] } : State).inbox = [.command (0x05 :: [])] ∧
    ([] : List Byte).length ≠ 10 := by decide
theorem witness_IllegalCommandsAreRefused :
    ({ start with inbox := [.command []] } : State).inbox = [.command []] ∧ start.fsm = .idle ∧
    ¬ Spec.LegalCommand cfg [] := by
  unfold Spec.LegalCommand Spec.Digits; decide
theorem witness_IllegalCommandsAreRefused_legal :
    start.fsm = .idle ∧ Spec.LegalCommand cfg [0x04, 0, 0, 0, 1, 0x7F, 0x7F, 0x7F, 0x7F] := by
  unfold Spec.LegalCommand Spec.Digits Spec.weight; decide
theorem witness_IllegalCommandsAreRefused_held :
    ({ waiting with inbox := [.command [], .tick] } : State).inbox = [.command [], .tick] ∧ waiting.fsm ≠ .idle := by decide
theorem witness_CommandsOutsideIdleHaveNoEffect :
    Instr.isCommand (.sendStore ⟨0, 0, 0, 0⟩ []) = true ∧ waiting.fsm ≠ .idle ∧ bulk.fsm ≠ .idle := by decide

theorem witness_StoreFrameHasItsFields :
    start.fsm = .idle ∧ ([] : List Byte).length ≤ start.cfg.txDataMax ∧ waiting.fsm ≠ .idle ∧
    ({ cfg with txDataMax := 0 } : Config).txDataMax < ([0] : List Byte).length := by decide
theorem witness_QueryFrameHasItsFields : start.fsm = .idle ∧ waiting.fsm ≠ .idle := by decide
theorem witness_InboundChunkStoresItsFields :
    (0x7F#8 = checksum (quadBytes ⟨0, 0, 0, 0⟩ ++ [0x01]) ∨ start.cfg.dropBadCsum = false) ∧
    start.buf.length ≠ start.cfg.bufChunks ∧ ([0x01] : List Byte).length ≤ start.cfg.bufPayloadMax := by decide

theorem witness_RuntIsReportedAndDropped :
    (px ++ [0, 0, 1, 0] : List Byte).length < 12 ∧ (px ++ [0, 0, 1, 0, 0x7F] : List Byte).length = 12 ∧
    verify (px ++ [0, 0, 1, 0, 0x7F]) = true ∧ start.buf.length ≠ start.cfg.bufChunks := by decide
theorem witness_ChunkIsAppendedAndCounted :
    12 ≤ chunk1.length ∧ verify chunk1 = true ∧ Spec.Fits waiting.cfg chunk1 ∧
    waiting.buf.length ≠ waiting.cfg.bufChunks ∧ ¬ Spec.Completes waiting := by
  unfold Spec.Fits Spec.Completes; decide
theorem witness_ChunkIsAppendedAndCounted_dropped :
    12 ≤ badChunk.length ∧ verify badChunk = false ∧ ({ cfg with dropBadCsum := true } : Config).dropBadCsum = true := by
  decide
theorem witness_TargetChunkCompletesTheQuery :
    verify chunk2 = true ∧ Spec.Fits oneIn.cfg chunk2 ∧ oneIn.buf.length ≠ oneIn.cfg.bufChunks ∧ Spec.Completes oneIn ∧
    ¬ Spec.Completes bulk := by
  unfold Spec.Fits Spec.Completes; decide
theorem witness_OverflowDropsTheChunk :
    12 ≤ badChunk.length ∧ (verify badChunk = true ∨ cfg.dropBadCsum = false) ∧
    ({ oneIn with cfg := { cfg with bufChunks := 1 } } : State).buf.length = 1 := by decide
theorem witness_OverflowDropsTheChunk_too_long :
    12 ≤ chunk1.length ∧ verify chunk1 = true ∧ 12 + ({ cfg with bufPayloadMax := 0 } : Config).bufPayloadMax < chunk1.length := by
  decide

theorem witness_InboundMessageFrame : ∃ t, exec (.rxMsg .sysex chunk2) oneIn = .next t := ⟨_, rfl⟩
theorem witness_InboundPrefixIsNotExamined :
    chunk1.length = (ps ++ [0, 0, 0, 0, 0x01, 0x7F] : List Byte).length ∧
    chunk1.drop 7 = (ps ++ [0, 0, 0, 0, 0x01, 0x7F] : List Byte).drop 7 ∧ chunk1 ≠ ps ++ [0, 0, 0, 0, 0x01, 0x7F] := by decide

theorem witness_TickCountsDownTheTimeout :
    waiting.fsm = .waitCount ∧ 2 ≤ waiting.tmr.toNat ∧ ({ waiting with tmr := 1 } : State).tmr.toNat = 1 := by decide
theorem witness_TickCountsDownTheTimeout_fifth :
    ({ waiting with inbox := [.tick, .tick, .tick, .tick, .tick] } : State).inbox =
      [.tick, .tick, .tick, .tick, .tick] ++ [] ∧ waiting.tmr.toNat = 5 := by decide
theorem witness_TickCountsDownTheDelay :
    bulk.fsm = .waitDelay ∧ 2 ≤ bulk.tmr.toNat ∧ ({ bulk with tmr := 1 } : State).tmr.toNat = 1 ∧
    bulk.cmdr = .queryBulk := by decide
theorem witness_TickInIdleDoesNothing : start.fsm = .idle := by decide
theorem witness_TickFrame : ∃ t, exec .tick waiting = .next t := ⟨_, rfl⟩
theorem witness_ResetWritesEveryRegister :
    (State.resetWith Config.atReset).cfg = Config.atReset ∧ (State.resetWith Config.atReset).inbox = [] ∧
    (State.resetWith Config.atReset).out = [] := ⟨rfl, rfl, rfl⟩

theorem witness_StepRunsTheDecodedOperation :
    takeEvent .waitCount [.command [0x01], .tick] = some (.tick, [.command [0x01]]) ∧ decodeEvent .tick = .ok .tick := by
  exact ⟨by decide, rfl⟩
theorem witness_StepRunsTheDecodedOperation_undecodable :
    takeEvent .idle [.command []] = some (.command [], []) ∧ decodeEvent (.command []) = .error .emptyCommand := by
  exact ⟨by decide, rfl⟩
theorem witness_StepRunsTheDecodedOperation_nothing : takeEvent .waitDelay [.command []] = none := by decide
theorem witness_CommandsAreHeldWhileWaiting :
    Fsm.waitCount ≠ .idle ∧ (∀ h ∈ [PortEvent.command [0x01]], ∃ b, h = .command b) ∧ (∀ b, PortEvent.tick ≠ .command b) ∧
    waiting.fsm ≠ .idle ∧ ∃ t, step waiting = .next t :=
  ⟨by decide, by simp, by simp, by decide, _, rfl⟩
theorem witness_OutputsGrowAndConstantsStay : Goes waiting waiting := rfl
theorem witness_EverySentFrameIsWellFramed :
    ∃ t, Goes { start with inbox := [.command [0x01, 0, 0, 0, 0]] } t ∧
      Output.tx (ps ++ [0, 0, 0, 0, 0]) ∈ t.out.drop 0 := ⟨_, rfl, by decide⟩

theorem witness_FsmMovesOnlyAsTabled_query :
    Spec.IsQuery (.queryBytes ⟨0, 0, 0, 0⟩ 1) ∧ start.fsm = .idle ∧
    Instr.wellFormed start.cfg (.queryBytes ⟨0, 0, 0, 0⟩ 1) = true ∧
    Instr.wellFormed start.cfg (.queryBytes ⟨0, 0, 0, 0⟩ 0x10000000) = false :=
  ⟨trivial, by decide, by decide, by decide⟩
theorem witness_FsmMovesOnlyAsTabled_store :
    ∃ t, exec (.sendStore ⟨0, 0, 0, 0⟩ []) start = .next t ∧ t.fsm = start.fsm := ⟨_, rfl, by decide⟩
theorem witness_FsmMovesOnlyAsTabled_bulk :
    start.fsm = .idle ∧ (∃ t, exec (.queryBulk ⟨0, 0, 0, 0⟩ ⟨0, 0, 0, 0⟩ 0) start = .next t ∧ t.fsm = .idle) ∧
    ∃ t, exec (.queryBulk ⟨0, 0, 0, 0⟩ ⟨0, 0, 0, 0⟩ 1) start = .next t ∧ t.fsm = .waitDelay :=
  ⟨by decide, ⟨_, rfl, by decide⟩, _, rfl, by decide⟩
theorem witness_FsmMovesOnlyAsTabled_held :
    Instr.isCommand (.queryBulk ⟨0, 0, 0, 0⟩ ⟨0, 0, 0, 0⟩ 0) = true ∧ bulk.fsm ≠ .idle ∧
    exec (.queryBulk ⟨0, 0, 0, 0⟩ ⟨0, 0, 0, 0⟩ 0) bulk = .next bulk := ⟨by decide, by decide, rfl⟩
theorem witness_FsmMovesOnlyAsTabled_tick :
    (∃ t, exec .tick { waiting with tmr := 1 } = .next t ∧ t.tmr = 0 ∧ t.fsm = .idle) ∧
    ∃ t, exec .tick { waiting with tmr := 2 } = .next t ∧ t.tmr = 1 ∧ t.fsm = .waitCount :=
  ⟨⟨_, rfl, by decide, by decide⟩, _, rfl, by decide, by decide⟩
theorem witness_FsmMovesOnlyAsTabled_reset : ∃ t, exec .reset bulk = .next t ∧ t.fsm = .idle := ⟨_, rfl, by decide⟩
theorem witness_FsmMovesOnlyAsTabled_message : ∃ t, exec (.rxMsg .sysex chunk2) oneIn = .next t ∧ t.fsm = .idle :=
  ⟨_, rfl, by decide⟩
theorem witness_OneResultExactlyWhenTheWaitEnds :
    waiting.fsm ≠ .idle ∧ ∃ t, exec .tick { waiting with tmr := 1 } = .next t ∧ t.fsm = .idle :=
  ⟨by decide, _, rfl, by decide⟩
theorem witness_FlagsStayUntilCleared :
    (∃ t, exec .tick waiting = .next t) ∧ ¬ Spec.ClearsSession .tick waiting ∧ ¬ Spec.ClearsArg .tick waiting ∧
    Spec.ClearsArg .reset waiting :=
  ⟨⟨_, rfl⟩, by simp [Spec.ClearsSession, Spec.IsQuery], by simp [Spec.ClearsArg, Instr.isCommand], .inl rfl⟩
theorem witness_ResetHasTheInvariants : cfg.Legal := by decide
theorem witness_EveryStepKeepsTheInvariants :
    oneIn.Inv ∧ ∃ t, Goes { oneIn with inbox := [.message .sysex chunk2] } t := ⟨inv_oneIn, _, rfl⟩
theorem witness_BufferFormIsKept :
    oneIn.cfg.Legal ∧ Memory.wf oneIn.cfg oneIn.buf = true ∧ oneIn.cnt.toNat = oneIn.buf.length ∧
    ∃ t, exec (.rxMsg .sysex chunk2) oneIn = .next t := ⟨by decide, by decide, by decide, _, rfl⟩
theorem witness_WaitEndsWithinTmrTicks :
    ({ bulk with inbox := [.command [], .tick, .tick, .tick] } : State).Inv ∧ bulk.fsm ≠ .idle ∧
    bulk.tmr.toNat ≤ List.count .tick [PortEvent.command [], .tick, .tick, .tick] :=
  ⟨by constructor <;> decide, by decide, by decide⟩

/-- A state with these events at the ports of an idle block. -/
def offering (es : List PortEvent) : State := { start with inbox := es }

/-- A frame of 253 bytes, the longest that a device sends (R63). -/
def fullFrame : List Byte := List.replicate 253 0

/-- The section 4 state with one chunk to come and one tick left. -/
def lastTick : State := { oneIn with tmr := 1 }

theorem witness_QueryBytesReturnsChunksInArrivalOrder :
    start.fsm = .idle ∧ start.cfg.dropBadCsum = false ∧ (300#32).toNat < 2 ^ 28 ∧
    [chunk1, chunk2].length = (300#32).toNat / 241 + 1 ∧ [chunk1, chunk2].length ≤ start.cfg.bufChunks ∧
    (∀ f ∈ [chunk1, chunk2], Spec.Fits start.cfg f) ∧
    (offering [.command (encode cfg (.queryBytes ⟨0, 0, 0, 0⟩ 300)), .message .sysex chunk1, .message .sysex chunk2]).inbox =
      .command (encode start.cfg (.queryBytes ⟨0, 0, 0, 0⟩ 300)) :: ([chunk1, chunk2].map (.message .sysex) ++ []) := by
  unfold Spec.Fits; decide
theorem witness_QueryRangeReturnsPairsInArrivalOrder :
    start.fsm = .idle ∧ start.cfg.dropBadCsum = false ∧ Spec.Digits ⟨0, 0, 0, 0⟩ ∧ Spec.Digits ⟨0, 0, 1, 0x70⟩ ∧
    span ⟨0, 0, 0, 0⟩ ⟨0, 0, 1, 0x70⟩ = some 241 ∧ [chunk2, chunk1].length = (241#28).toNat / 241 + 1 ∧
    [chunk2, chunk1].length ≤ start.cfg.bufChunks ∧ (∀ f ∈ [chunk2, chunk1], Spec.Fits start.cfg f) ∧
    (offering [.command (encode cfg (.queryRange ⟨0, 0, 0, 0⟩ ⟨0, 0, 1, 0x70⟩)), .message .sysex chunk2,
        .message .sysex chunk1]).inbox =
      .command (encode start.cfg (.queryRange ⟨0, 0, 0, 0⟩ ⟨0, 0, 1, 0x70⟩)) ::
        ([chunk2, chunk1].map (.message .sysex) ++ []) := by
  unfold Spec.Digits Spec.Fits; decide
theorem witness_ShortQueryTimesOutAtTheFifthTick :
    start.fsm = .idle ∧ start.cfg.dropBadCsum = false ∧ (300#32).toNat < 2 ^ 28 ∧
    List.count .tick [PortEvent.tick, .message .sysex chunk1, .tick, .tick, .tick] = 4 ∧
    (List.filterMap Spec.sysexBytes [PortEvent.tick, .message .sysex chunk1, .tick, .tick, .tick]).length <
      (300#32).toNat / 241 + 1 ∧
    (List.filterMap Spec.sysexBytes [PortEvent.tick, .message .sysex chunk1, .tick, .tick, .tick]).length ≤
      start.cfg.bufChunks ∧
    Spec.Fits start.cfg chunk1 ∧
    (offering [.command (encode cfg (.queryBytes ⟨0, 0, 0, 0⟩ 300)), .tick, .message .sysex chunk1, .tick, .tick, .tick,
        .tick]).inbox =
      .command (encode start.cfg (.queryBytes ⟨0, 0, 0, 0⟩ 300)) ::
        ([PortEvent.tick, .message .sysex chunk1, .tick, .tick, .tick] ++ .tick :: []) := by
  unfold Spec.Fits; decide
theorem witness_MultipleOf241TimesOutWithAllItsBytes :
    start.fsm = .idle ∧ start.cfg.dropBadCsum = false ∧ 241 ≤ start.cfg.bufPayloadMax ∧ (241#32).toNat < 2 ^ 28 ∧
    (241#32).toNat % 241 = 0 ∧ [fullFrame].length = (241#32).toNat / 241 ∧ [fullFrame].length ≤ start.cfg.bufChunks ∧
    (∀ f ∈ [fullFrame], f.length = 253) ∧
    (offering [.command (encode cfg (.queryBytes ⟨0, 0, 0, 0⟩ 241)), .message .sysex fullFrame, .tick, .tick, .tick, .tick,
        .tick]).inbox =
      .command (encode start.cfg (.queryBytes ⟨0, 0, 0, 0⟩ 241)) ::
        ([fullFrame].map (.message .sysex) ++ [.tick, .tick, .tick, .tick, .tick] ++ []) :=
  ⟨rfl, rfl, by decide, by decide, by decide, by decide, by decide,
    fun _ hf => List.mem_singleton.1 hf ▸ List.length_replicate, rfl⟩
theorem witness_BulkQueryReturnsItsWindow :
    start.fsm = .idle ∧ start.cfg.dropBadCsum = false ∧
    List.count .tick [PortEvent.message .sysex chunk1, .tick] + 1 = (2#16).toNat ∧
    (List.filterMap Spec.sysexBytes [PortEvent.message .sysex chunk1, .tick]).length ≤ start.cfg.bufChunks ∧
    Spec.Fits start.cfg chunk1 ∧
    (offering [.command (encode cfg (.queryBulk ⟨0, 0, 0, 0⟩ ⟨0, 0, 0, 0⟩ 2)), .message .sysex chunk1, .tick, .tick]).inbox =
      .command (encode start.cfg (.queryBulk ⟨0, 0, 0, 0⟩ ⟨0, 0, 0, 0⟩ 2)) ::
        ([PortEvent.message .sysex chunk1, .tick] ++ .tick :: []) := by
  unfold Spec.Fits; decide
theorem witness_LastChunkAndLastTickRaceBothWays :
    ({ lastTick with inbox := [.message .sysex chunk2, .tick] } : State).Inv ∧ lastTick.fsm = .waitCount ∧ lastTick.tmr = 1 ∧
    lastTick.cnt + 1 = lastTick.tgt ∧ verify chunk2 = true ∧ Spec.Fits lastTick.cfg chunk2 ∧
    lastTick.buf.length ≠ lastTick.cfg.bufChunks := by
  refine ⟨by constructor <;> decide, ?_⟩
  unfold Spec.Fits; decide
theorem witness_StrayFramesCountTowardTheNewSession :
    start.fsm = .idle ∧ start.cfg.Legal ∧ (240#32).toNat < 241 ∧ 241 ≤ (241#32).toNat ∧ (241#32).toNat < 2 ^ 28 ∧
    verify chunk1 = true ∧ Spec.Fits start.cfg chunk1 ∧
    (offering [.message .sysex chunk1, .command (encode cfg (.queryBytes ⟨0, 0, 0, 0⟩ 240))]).inbox =
      [.message .sysex chunk1, .command (encode start.cfg (.queryBytes ⟨0, 0, 0, 0⟩ 240))] := by
  unfold Spec.Fits; decide

end Sys2Proof.Tests
end

section
/-! PROOFS. What one step of the block does, and that it always answers a next state (R6, R9). -/

namespace Sys2Proof.Machine

/-! ### One equation for each case of a step -/

/-- The model's refusal is the state R118 describes. -/
theorem refuse_eq_refused (s : State) : refuse s = Spec.refused s := by
  simp [refuse, raise, emit, setErrorFlag, Spec.refused]

theorem step_of_decode_ok {s : State} {event : PortEvent} {rest : List PortEvent} {i : Instr}
    (ht : takeEvent s.fsm s.inbox = some (event, rest)) (hd : decodeEvent event = .ok i) :
    step s = exec i { s with inbox := rest } := by
  simp [step, ht, hd]

theorem step_of_decode_error {s : State} {event : PortEvent} {rest : List PortEvent} {err : DecodeError}
    (ht : takeEvent s.fsm s.inbox = some (event, rest)) (hd : decodeEvent event = .error err) :
    step s = .next (refuse { s with inbox := rest }) := by
  simp [step, ht, hd]

theorem step_of_takeEvent_none {s : State} (ht : takeEvent s.fsm s.inbox = none) : step s = .next s := by
  simp [step, ht]

/-! ### No operation stops the block -/

/-- Every arm of `exec` is a `.next`: what R118 calls refused is a next state too. -/
theorem exec_goes (i : Instr) (s : State) : ∃ t, exec i s = .next t := by
  cases i <;> exact ⟨_, rfl⟩

/-! ### The statements -/

/-- Settles O38: one clause for each case of taking and decoding the next event. -/
theorem stepRunsTheDecodedOperation : Obligations.StepRunsTheDecodedOperation := by
  refine fun s => ⟨fun event rest i ht hd => step_of_decode_ok ht hd, fun event rest err ht hd => ?_,
    step_of_takeEvent_none⟩
  rw [step_of_decode_error ht hd, refuse_eq_refused]

/-- Settles O40: in each case of `step_cases` a next state is named, or `exec` answers one (`exec_goes`). -/
theorem everyStepGoesOn : Obligations.EveryStepGoesOn := by
  intro s
  unfold Goes
  obtain ⟨-, hs⟩ | ⟨_, rest, i, -, -, hs⟩ | ⟨_, rest, _, -, -, hs⟩ := step_cases s
  · exact ⟨s, hs⟩
  · rw [hs]
    exact exec_goes i { s with inbox := rest }
  · exact ⟨refuse { s with inbox := rest }, hs⟩

end Sys2Proof.Machine
end

section
/-! PROOFS. What one operation can do, said once, and what every operation keeps: the parameters, the outputs before it,
the flags of `STATUS`, the form of the chunk buffer; and the state after reset (R10 to R21). -/

namespace Sys2Proof.Machine

/-! ### Everything an operation can do -/

/-- The operations taken in `IDLE` only: commands and outbound frames (R110, R151). -/
abbrev NeedsIdle (i : Instr) : Prop := i.isCommand = true ∨ i.channel = .outbound

/-- Everything an operation can do in the state `s`, by the shared operation that does it; `exec_effect` ties it to
`exec`. -/
inductive Effect (s : State) : Instr → State → Prop where
  /-- Outside `IDLE` a command is held, and no frame is built (R110, R151). -/
  | held {i : Instr} (hi : NeedsIdle i) (hw : s.fsm ≠ .idle) : Effect s i s
  /-- Illegal operands (R69, R118). -/
  | refused {i : Instr} (hi : NeedsIdle i) (hidle : s.fsm = .idle) (hwf : i.wellFormed s.cfg = false) :
    Effect s i (refuse s)
  /-- `SEND_STORE` accepted (R112). -/
  | stored (addr : Quad) (data : List Byte) (hidle : s.fsm = .idle)
    (hwf : (Instr.sendStore addr data).wellFormed s.cfg = true) :
    Effect s (.sendStore addr data)
      { sendFrame s.cfg.pfxStore (quadBytes addr ++ data) s with status := { s.status with arg := false } }
  /-- A counted query accepted (R113 to R115). -/
  | counted {i : Instr} (kind : QueryKind) (len : BitVec 28) (addr length : Quad) (hk : kind.Counted)
    (hq : Spec.IsQuery i) (hidle : s.fsm = .idle) (hwf : i.wellFormed s.cfg = true) :
    Effect s i (openCounted kind (targetChunks len) (quadBytes addr ++ quadBytes length) s)
  /-- `QUERY_BULK` with no delay (R116). -/
  | bulkAtOnce (addr size : Quad) (hidle : s.fsm = .idle) :
    Effect s (.queryBulk addr size 0)
      { endSessionOk (openSession .queryBulk none (quadBytes addr ++ quadBytes size) s) with tmr := 0 }
  /-- `QUERY_BULK` with a delay (R116). -/
  | bulkWaits (addr size : Quad) {delay : BitVec 16} (hidle : s.fsm = .idle) (hd : delay ≠ 0) :
    Effect s (.queryBulk addr size delay)
      { openSession .queryBulk none (quadBytes addr ++ quadBytes size) s with tmr := delay, fsm := .waitDelay }
  /-- An inbound message (R140). -/
  | message (k : MsgKind) (f : List Byte) : Effect s (.rxMsg k f) (ingest k f s)
  /-- An inbound chunk (R63). -/
  | chunk (head : FrameHead) (addr : Quad) (data : List Byte) (csum : Byte) :
    Effect s (.frameChunk head addr data csum)
      (ingest .sysex (headBytes head ++ quadBytes addr ++ data ++ [csum]) s)
  /-- A tick in `IDLE` (R150). -/
  | tickIdle (hidle : s.fsm = .idle) : Effect s .tick s
  /-- A tick that does not end its wait (R148, R149). -/
  | tickCounts (hw : s.fsm ≠ .idle) (ht : s.tmr - 1 ≠ 0) : Effect s .tick (countDown s)
  /-- The last tick of a counted query (R148). -/
  | tickTimesOut (hw : s.fsm = .waitCount) (ht : s.tmr - 1 = 0) : Effect s .tick (endSessionTimeout (countDown s))
  /-- The last tick of a delay (R149). -/
  | tickEndsDelay (hw : s.fsm = .waitDelay) (ht : s.tmr - 1 = 0) : Effect s .tick (endSessionOk (countDown s))
  /-- `RESET` (R200). -/
  | reset : Effect s .reset { State.resetWith s.cfg with inbox := s.inbox, out := s.out }
  /-- An outbound frame handed to the port (R54, R61, R62). -/
  | frameSent {i : Instr} (hi : i.channel = .outbound) (hidle : s.fsm = .idle) (hwf : i.wellFormed s.cfg = true) :
    Effect s i (emit (.tx (encode s.cfg i)) s)

theorem Effect.whenIdle {s t : State} {i : Instr} (hi : NeedsIdle i) (h : s.fsm = .idle → Effect s i t) :
    Effect s i (whenIdle s t) := by
  by_cases hf : s.fsm = .idle
  · rw [whenIdle_idle hf]
    exact h hf
  · rw [whenIdle_waiting hf]
    exact .held hi hf

theorem effect_tick {s t : State} (h : execTick s = .next t) : Effect s .tick t := by
  unfold execTick at h
  cases h
  split
  · next hf => exact .tickIdle hf
  · next hf =>
    split
    · next ht => exact .tickTimesOut hf ht
    · next ht => exact .tickCounts (by simp [hf]) ht
  · next hf =>
    split
    · next ht => exact .tickEndsDelay hf ht
    · next ht => exact .tickCounts (by simp [hf]) ht

/-- Each operation does one of the things that `Effect` lists for it. -/
theorem exec_effect {i : Instr} {s t : State} (h : exec i s = .next t) : Effect s i t := by
  cases i with
  | sendStore addr data =>
    cases h
    refine .whenIdle (.inl rfl) fun hidle => ?_
    split
    · next hwf => exact .stored addr data hidle hwf
    · next hwf => exact .refused (.inl rfl) hidle (Bool.eq_false_iff.2 hwf)
  | queryBytes addr len =>
    cases h
    refine .whenIdle (.inl rfl) fun hidle => ?_
    split
    · next hwf => exact .counted .queryBytes _ addr _ (by decide) trivial hidle hwf
    · next hwf => exact .refused (.inl rfl) hidle (Bool.eq_false_iff.2 hwf)
  | queryByte base off =>
    cases h
    refine .whenIdle (.inl rfl) fun hidle => ?_
    split
    · next e he => exact .counted .queryByte 1 e _ (by decide) trivial hidle (by simp [Instr.wellFormed, he])
    · next he => exact .refused (.inl rfl) hidle (by simp [Instr.wellFormed, he])
  | queryRange first last =>
    cases h
    refine .whenIdle (.inl rfl) fun hidle => ?_
    split
    · next n hn => exact .counted .queryRange n first _ (by decide) trivial hidle (by simp [Instr.wellFormed, hn])
    · next hn => exact .refused (.inl rfl) hidle (by simp [Instr.wellFormed, hn])
  | queryBulk addr size delay =>
    cases h
    refine .whenIdle (.inl rfl) fun hidle => ?_
    dsimp only
    split
    · next hd => exact hd ▸ .bulkAtOnce addr size hidle
    · next hd => exact .bulkWaits addr size hidle hd
  | rxMsg kind msg => cases h; exact .message kind msg
  | tick => exact effect_tick h
  | reset => cases h; exact .reset
  | frameStore addr data =>
    cases h
    refine .whenIdle (.inr rfl) fun hidle => ?_
    split
    · next hwf => exact .frameSent (i := .frameStore addr data) rfl hidle hwf
    · next hwf => exact .refused (.inr rfl) hidle (Bool.eq_false_iff.2 hwf)
  | frameQuery addr length =>
    cases h
    exact .whenIdle (.inr rfl) fun hidle => .frameSent (i := .frameQuery addr length) rfl hidle rfl
  | frameChunk head addr data csum => cases h; exact .chunk head addr data csum

/-- What raising an error, appending a chunk that fits, and ending a session keep, every inbound message keeps. -/
theorem ingest_preserves {P : State → Prop} (hraise : ∀ e t, P t → P (raise e t))
    (happend : ∀ e t, t.buf.length ≠ t.cfg.bufChunks → e.data.length ≤ t.cfg.bufPayloadMax → P t →
      P (appendOnly e t))
    (hend : ∀ t, P t → P (endSessionOk t)) (k : MsgKind) (f : List Byte) {s : State} (hs : P s) :
    P (ingest k f s) := by
  have hchecked : ∀ e, P (checked e s) := fun e => by
    unfold checked
    split
    · exact hs
    · exact hraise _ _ hs
  rcases ingest_cases k f s with ⟨-, hi⟩ | ⟨-, -, hi⟩ | ⟨-, -, hi⟩ <;> rw [hi]
  · exact hraise _ _ hs
  · exact hraise _ _ hs
  obtain ⟨hc, -, -, -, -, -, -, hb, -⟩ := checked_frame (frameFields f) s
  rcases ingestFields_cases (frameFields f) (s.cfg.bufPayloadMax < (frameFields f).data.length) s with
    ⟨-, -, hf⟩ | ⟨-, -, hf⟩ | ⟨-, hroom, hfits, hf⟩ <;> rw [hf]
  · exact hraise _ _ hs
  · exact hraise _ _ (hchecked _)
  have happended : P (appendOnly (frameFields f) (checked (frameFields f) s)) :=
    happend _ _ (by rwa [hb, hc]) (by simpa [hc] using hfits) (hchecked _)
  by_cases hcompletes : CompletesWith (checked (frameFields f) s)
  · rw [appendAndTest_completes hcompletes]
    exact hend _ happended
  · rw [appendAndTest_continues hcompletes]
    exact happended

/-! ### The parameters and the outputs -/

/-- The parameters are as before, and the outputs are those before and then some. -/
def Extends (s t : State) : Prop := t.cfg = s.cfg ∧ ∃ added, t.out = s.out ++ added

theorem Extends.refl (s : State) : Extends s s := ⟨rfl, [], by simp⟩

theorem Extends.trans {s t u : State} (h : Extends s t) (h' : Extends t u) : Extends s u := by
  obtain ⟨hc, l, hl⟩ := h
  obtain ⟨hc', l', hl'⟩ := h'
  exact ⟨hc'.trans hc, l ++ l', by simp [hl', hl]⟩

theorem refuse_extends (s : State) : Extends s (refuse s) := ⟨rfl, _, List.append_assoc _ _ _⟩

theorem endSessionTimeout_extends (s : State) : Extends s (endSessionTimeout s) := ⟨rfl, _, List.append_assoc _ _ _⟩

theorem endSessionOk_extends (s : State) : Extends s (endSessionOk s) := ⟨rfl, _, rfl⟩

theorem openSession_extends (k : QueryKind) (g : Option (BitVec 21)) (p : List Byte) (s : State) :
    Extends s (openSession k g p s) := ⟨rfl, _, rfl⟩

theorem ingest_extends (k : MsgKind) (f : List Byte) (s : State) : Extends s (ingest k f s) :=
  ingest_preserves (P := Extends s) (fun _ _ h => h.trans ⟨rfl, _, rfl⟩) (fun _ _ _ _ h => h)
    (fun t h => h.trans (endSessionOk_extends t)) k f (.refl s)

theorem Effect.extends {s t : State} {i : Instr} (h : Effect s i t) : Extends s t := by
  cases h with
  | held | tickIdle | tickCounts | reset => exact .refl s
  | refused => exact refuse_extends s
  | stored | frameSent => exact ⟨rfl, _, rfl⟩
  | counted kind len addr length => exact openSession_extends kind (some (targetChunks len)) _ s
  | bulkAtOnce addr size => exact (openSession_extends _ _ _ s).trans (endSessionOk_extends _)
  | bulkWaits addr size => exact openSession_extends .queryBulk none _ s
  | message k f => exact ingest_extends k f s
  | chunk => exact ingest_extends _ _ s
  | tickTimesOut => exact endSessionTimeout_extends (countDown s)
  | tickEndsDelay => exact endSessionOk_extends (countDown s)

/-- Settles O41: taking an event writes the ports only, and each effect of an operation extends the state. -/
theorem outputsGrowAndConstantsStay : Obligations.OutputsGrowAndConstantsStay := by
  intro s t h
  unfold Goes at h
  obtain ⟨-, hs⟩ | ⟨_, rest, i, -, -, hs⟩ | ⟨_, rest, _, -, -, hs⟩ := step_cases s <;> rw [hs] at h
  · cases h
    exact Extends.refl s
  · exact (exec_effect h).extends
  · cases h
    exact refuse_extends { s with inbox := rest }

/-! ### The flags of `STATUS` -/

/-- Each flag of the session that is set in `f` is set in `g` (R17). -/
def SessionFlagsKept (f g : Status) : Prop :=
  (f.done = true → g.done = true) ∧ (f.timeout = true → g.timeout = true) ∧ (f.frm = true → g.frm = true) ∧
  (f.runt = true → g.runt = true) ∧ (f.ovf = true → g.ovf = true) ∧ (f.cse = true → g.cse = true)

/-- Each flag that is set in `f`, `ARG` too, is set in `g`. -/
def FlagsKept (f g : Status) : Prop := SessionFlagsKept f g ∧ (f.arg = true → g.arg = true)

theorem FlagsKept.refl (f : Status) : FlagsKept f f := by simp [FlagsKept, SessionFlagsKept]

theorem FlagsKept.trans {f g h : Status} (hfg : FlagsKept f g) (hgh : FlagsKept g h) : FlagsKept f h := by
  obtain ⟨⟨d, t, m, r, o, c⟩, a⟩ := hfg
  obtain ⟨⟨d', t', m', r', o', c'⟩, a'⟩ := hgh
  exact ⟨⟨d' ∘ d, t' ∘ t, m' ∘ m, r' ∘ r, o' ∘ o, c' ∘ c⟩, a' ∘ a⟩

theorem setErrorFlag_keeps (e : ErrorKind) (f : Status) : FlagsKept f (setErrorFlag e f) := by
  cases e <;> simp [FlagsKept, SessionFlagsKept, setErrorFlag]

theorem endSessionOk_keeps_flags (s : State) : FlagsKept s.status (endSessionOk s).status := by
  simp [FlagsKept, SessionFlagsKept]

theorem ingest_keeps_flags (k : MsgKind) (f : List Byte) (s : State) : FlagsKept s.status (ingest k f s).status :=
  ingest_preserves (P := fun t => FlagsKept s.status t.status) (fun e _ h => h.trans (setErrorFlag_keeps e _))
    (fun _ _ _ _ h => h) (fun t h => h.trans (endSessionOk_keeps_flags t)) k f (.refl s.status)

theorem NeedsIdle.ne_reset {i : Instr} (hi : NeedsIdle i) : i ≠ .reset := by
  rintro rfl
  rcases hi with hi | hi <;> cases hi

theorem isCommand_of_outbound {i : Instr} (hi : i.channel = .outbound) : i.isCommand = false := by
  cases i with
  | frameStore | frameQuery => rfl
  | _ => cases hi

theorem isCommand_of_isQuery {i : Instr} (hq : Spec.IsQuery i) : i.isCommand = true := by
  cases i with
  | queryBytes | queryByte | queryRange | queryBulk => rfl
  | _ => cases hq

theorem clearsArg_of_clearsSession {i : Instr} {s : State} (h : Spec.ClearsSession i s) : Spec.ClearsArg i s :=
  h.imp_right fun ⟨hq, hrest⟩ => ⟨isCommand_of_isQuery hq, hrest⟩

/-- The flags after an operation: all are kept; or an accepted command clears `ARG` alone; or an accepted query or `RESET`
clears the session's flags and `ARG`. -/
theorem Effect.flags {s t : State} {i : Instr} (h : Effect s i t) :
    (¬ Spec.ClearsArg i s ∧ FlagsKept s.status t.status) ∨
    (Spec.ClearsArg i s ∧ SessionFlagsKept s.status t.status ∧ t.status.arg = false) ∨
    (Spec.ClearsSession i s ∧ t.status.arg = false) := by
  cases h with
  | held hi hw => exact .inl ⟨by simp [Spec.ClearsArg, hi.ne_reset, hw], .refl _⟩
  | refused hi _ hwf =>
    exact .inl ⟨by simp [Spec.ClearsArg, hi.ne_reset, hwf], setErrorFlag_keeps .argument _⟩
  | stored addr data hidle hwf =>
    exact .inr (.inl ⟨.inr ⟨rfl, hidle, hwf⟩, (FlagsKept.refl s.status).1, rfl⟩)
  | counted _ _ _ _ _ hq hidle hwf => exact .inr (.inr ⟨.inr ⟨hq, hidle, hwf⟩, rfl⟩)
  | bulkAtOnce _ _ hidle | bulkWaits _ _ hidle => exact .inr (.inr ⟨.inr ⟨trivial, hidle, rfl⟩, rfl⟩)
  | message | chunk => exact .inl ⟨by simp [Spec.ClearsArg, Instr.isCommand], ingest_keeps_flags _ _ s⟩
  | tickIdle | tickCounts => exact .inl ⟨by simp [Spec.ClearsArg, Instr.isCommand], .refl _⟩
  | tickTimesOut => exact .inl ⟨by simp [Spec.ClearsArg, Instr.isCommand], setErrorFlag_keeps .timeout _⟩
  | tickEndsDelay => exact .inl ⟨by simp [Spec.ClearsArg, Instr.isCommand], endSessionOk_keeps_flags (countDown s)⟩
  | reset => exact .inr (.inr ⟨.inl rfl, rfl⟩)
  | frameSent hi =>
    exact .inl ⟨by simp [Spec.ClearsArg, isCommand_of_outbound hi, NeedsIdle.ne_reset (.inr hi)], .refl _⟩

/-- Settles O45: one clause of `Effect.flags` each. -/
theorem flagsStayUntilCleared : Obligations.FlagsStayUntilCleared := by
  intro i s t h
  rcases (exec_effect h).flags with ⟨hno, hsession, harg⟩ | ⟨hclears, hsession, harg⟩ | ⟨hclears, harg⟩
  · exact ⟨fun _ => hsession, fun _ => harg, fun hyes => absurd hyes hno⟩
  · exact ⟨fun _ => hsession, fun hno => absurd hclears hno, fun _ => harg⟩
  · exact ⟨fun hno => absurd hclears hno, fun hno => absurd (clearsArg_of_clearsSession hclears) hno, fun _ => harg⟩

/-- `STATUS` from bit 0 up. -/
theorem statusByte_eq_ofBoolListLE (s : State) :
    s.statusByte = BitVec.ofBoolListLE
      [s.busy, s.status.done, s.status.timeout, s.status.frm, s.status.runt, s.status.ovf, s.status.cse,
        s.status.arg] := by
  have hempty : BitVec.ofBool s.status.arg = BitVec.ofBoolListLE [s.status.arg] := by cases s.status.arg <;> rfl
  unfold State.statusByte
  rw [hempty]
  rfl

/-- Settles O46: `STATUS` is the list of its bits, and its bit `i` is the list's. -/
theorem statusByteHasItsBits : Obligations.StatusByteHasItsBits := by
  intro s
  have hbusy : decide (s.fsm ≠ .idle) = s.busy := by simp [State.busy, bne, beq_eq_decide]
  simp only [statusByte_eq_ofBoolListLE, hbusy, BitVec.getLsbD_ofBoolListLE, List.getD_cons_zero,
    List.getD_cons_succ, and_self]

/-! ### The chunk buffer -/

/-- The buffer is within its capacities, which `CNT` can count, and `CNT` is its length (R14, R16). -/
structure CountedBuffer (s : State) : Prop where
  chunks_lt : s.cfg.bufChunks < 2 ^ 21
  wf : Memory.wf s.cfg s.buf = true
  cnt_eq : s.cnt.toNat = s.buf.length

theorem CountedBuffer.cnt_le {s : State} (h : CountedBuffer s) : s.cnt.toNat ≤ s.cfg.bufChunks :=
  h.cnt_eq ▸ (Memory.wf_iff.1 h.wf).1

/-- An append where there is room keeps the count, which does not wrap. -/
theorem CountedBuffer.appendOnly {s : State} {e : Entry} (h : CountedBuffer s)
    (hroom : s.buf.length ≠ s.cfg.bufChunks) (hfits : e.data.length ≤ s.cfg.bufPayloadMax) :
    CountedBuffer (appendOnly e s) where
  chunks_lt := h.chunks_lt
  wf := Memory.wf_append h.wf hroom hfits
  cnt_eq := by
    have hlt : s.buf.length + 1 < 2 ^ 21 := by
      have hle : s.buf.length ≤ s.cfg.bufChunks := (Memory.wf_iff.1 h.wf).1
      have hchunks := h.chunks_lt
      omega
    calc (s.cnt + 1).toNat = (s.buf.length + 1) % 2 ^ 21 := by rw [BitVec.toNat_add, h.cnt_eq]; rfl
      _ = s.buf.length + 1 := Nat.mod_eq_of_lt hlt
      _ = (s.buf ++ [e]).length := by simp

theorem CountedBuffer.of_empty {t : State} (hc : t.cfg.bufChunks < 2 ^ 21) (hb : t.buf = []) (hn : t.cnt = 0) :
    CountedBuffer t := ⟨hc, hb ▸ Memory.wf_nil _, by simp [hb, hn]⟩

theorem CountedBuffer.ingest {s : State} (h : CountedBuffer s) (k : MsgKind) (f : List Byte) :
    CountedBuffer (ingest k f s) :=
  ingest_preserves (fun _ _ ⟨hc, hw, hn⟩ => ⟨hc, hw, hn⟩) (fun _ _ hroom hfits ht => ht.appendOnly hroom hfits)
    (fun _ ⟨hc, hw, hn⟩ => ⟨hc, hw, hn⟩) k f h

theorem Effect.countedBuffer {s t : State} {i : Instr} (h : Effect s i t) (hs : CountedBuffer s) :
    CountedBuffer t := by
  cases h with
  | counted | bulkAtOnce | bulkWaits | reset => exact .of_empty hs.chunks_lt rfl rfl
  | message | chunk => exact hs.ingest _ _
  | held | refused | stored | tickIdle | tickCounts | tickTimesOut | tickEndsDelay | frameSent =>
    exact ⟨hs.chunks_lt, hs.wf, hs.cnt_eq⟩

/-- Settles O50: every effect keeps the counted buffer, and the bound of `CNT` is part of its form. -/
theorem bufferFormIsKept : Obligations.BufferFormIsKept := by
  intro i s t ⟨_, hchunks, _⟩ hwf hcnt h
  have ht : CountedBuffer t := (exec_effect h).countedBuffer ⟨hchunks, hwf, hcnt⟩
  exact ⟨ht.wf, ht.cnt_eq, ht.cnt_le⟩

/-! ### The state after reset -/

/-- Settles O37: register by register, from the laws of `State.resetWith`. -/
theorem resetStateIsAllZero : Obligations.ResetStateIsAllZero := by
  refine ⟨rfl, rfl, rfl, rfl, rfl, rfl, rfl, rfl, ?_, rfl⟩
  simp [State.statusByte, State.busy, Status.clear]

/-- After reset nothing is buffered or counted, no session is open and no flag is set, so only the parameters matter. -/
theorem resetWith_inv {c : Config} (hc : c.Legal) : (State.resetWith c).Inv where
  cfg_legal := hc
  buf_wf := resetWith_wf c
  cnt_eq := rfl
  tgt_pos := by simp
  one_end := by simp [Status.clear]
  waiting_flags := by simp
  wait_count := by simp
  wait_delay := by simp

/-- Settles O48: the parameters of the reset state are legal ones. -/
theorem resetHasTheInvariants : Obligations.ResetHasTheInvariants :=
  ⟨resetWith_inv atReset_legal, fun _ => resetWith_inv⟩

end Sys2Proof.Machine
end

section
/-! PROOFS. The decoder and the encoder are inverse, channel by channel, and what is no command is an illegal encoding
(R60 to R63, R68, R70, R72). -/

namespace Sys2Proof

open Machine BitVec

/-! ### Binary operands (R68) -/

@[simp] theorem be32_be32Bytes (w : BitVec 32) : be32 (be32Bytes w) = w := by
  have h2 : w.extractLsb' 24 8 ++ w.extractLsb' 16 8 = w.extractLsb' 16 16 :=
    extractLsb'_append_extractLsb'_eq_extractLsb' rfl
  have h3 : w.extractLsb' 16 16 ++ w.extractLsb' 8 8 = w.extractLsb' 8 24 :=
    extractLsb'_append_extractLsb'_eq_extractLsb' rfl
  have h4 : w.extractLsb' 8 24 ++ w.extractLsb' 0 8 = w.extractLsb' 0 32 :=
    extractLsb'_append_extractLsb'_eq_extractLsb' rfl
  calc be32 (be32Bytes w)
    _ = w.extractLsb' 24 8 ++ w.extractLsb' 16 8 ++ w.extractLsb' 8 8 ++ w.extractLsb' 0 8 := rfl
    _ = w.extractLsb' 0 32 := by rw [h2, h3, h4]
    _ = w := extractLsb'_eq_self

@[simp] theorem be32Bytes_be32 (q : Quad) : be32Bytes (be32 q) = q := by
  obtain ⟨a, b, c, d⟩ := q
  have skip {n : Nat} (x : BitVec n) (y : Byte) (k : Nat) : (x ++ y).extractLsb' (k + 8) 8 = x.extractLsb' k 8 :=
    extractLsb'_append_eq_of_le (Nat.le_add_left 8 k)
  have h0 : (a ++ b ++ c ++ d).extractLsb' 24 8 = a :=
    (skip _ d 16).trans ((skip _ c 8).trans extractLsb'_append_eq_left)
  have h1 : (a ++ b ++ c ++ d).extractLsb' 16 8 = b :=
    (skip _ d 8).trans ((skip _ c 0).trans extractLsb'_append_eq_right)
  have h2 : (a ++ b ++ c ++ d).extractLsb' 8 8 = c := (skip _ d 0).trans extractLsb'_append_eq_right
  have h3 : (a ++ b ++ c ++ d).extractLsb' 0 8 = d := extractLsb'_append_eq_right
  exact congr (congr (congr (congrArg Quad.mk h0) h1) h2) h3

@[simp] theorem be16_extractLsb' (w : BitVec 16) : be16 (w.extractLsb' 8 8) (w.extractLsb' 0 8) = w :=
  (extractLsb'_append_extractLsb'_eq_extractLsb' rfl).trans extractLsb'_eq_self

@[simp] theorem extractLsb'_be16_hi (hi lo : Byte) : (be16 hi lo).extractLsb' 8 8 = hi := extractLsb'_append_eq_left
@[simp] theorem extractLsb'_be16_lo (hi lo : Byte) : (be16 hi lo).extractLsb' 0 8 = lo := extractLsb'_append_eq_right

/-! ### The shape of byte sequences -/

@[simp] theorem quadBytes_length (q : Quad) : (quadBytes q).length = 4 := rfl

@[simp] theorem headBytes_length (h : FrameHead) : (headBytes h).length = 7 := rfl

theorem exists_quadBytes_append : ∀ {l : List Byte}, 4 ≤ l.length → ∃ q rest, l = quadBytes q ++ rest
  | a :: b :: c :: d :: rest, _ => ⟨⟨a, b, c, d⟩, rest, rfl⟩

theorem exists_headBytes_append : ∀ {l : List Byte}, 7 ≤ l.length → ∃ h rest, l = headBytes h ++ rest
  | a :: b :: c :: d :: e :: f :: g :: rest, _ => ⟨⟨a, b, c, d, e, f, g⟩, rest, rfl⟩

theorem exists_two_quads : ∀ {l : List Byte}, l.length = 8 → ∃ a b, l = quadBytes a ++ quadBytes b
  | [a0, a1, a2, a3, b0, b1, b2, b3], _ => ⟨⟨a0, a1, a2, a3⟩, ⟨b0, b1, b2, b3⟩, rfl⟩

theorem exists_two_quads_and_word :
    ∀ {l : List Byte}, l.length = 10 → ∃ a b hi lo, l = quadBytes a ++ quadBytes b ++ [hi, lo]
  | [a0, a1, a2, a3, b0, b1, b2, b3, hi, lo], _ => ⟨⟨a0, a1, a2, a3⟩, ⟨b0, b1, b2, b3⟩, hi, lo, rfl⟩

theorem splitLast_eq_none_iff {l : List Byte} : splitLast l = none ↔ l = [] := by
  cases l with
  | nil => exact ⟨fun _ => rfl, fun _ => rfl⟩
  | cons b bs => cases h : splitLast bs <;> simp [splitLast, h]

theorem append_of_splitLast {l front : List Byte} {last : Byte} (h : splitLast l = some (front, last)) :
    l = front ++ [last] := by
  induction l generalizing front with
  | nil => cases h
  | cons b bs ih =>
    unfold splitLast at h
    split at h
    · next hbs =>
      cases h
      rw [splitLast_eq_none_iff.1 hbs, List.nil_append]
    · next hbs =>
      cases h
      rw [ih hbs, List.cons_append]

@[simp] theorem splitLast_append_singleton (front : List Byte) (last : Byte) :
    splitLast (front ++ [last]) = some (front, last) := by
  induction front with
  | nil => rfl
  | cons b bs ih => simp [splitLast, ih]

/-! ### Commands (R68) -/

theorem channel_of_isCommand {i : Instr} (hi : i.isCommand = true) : i.channel = .trace := by
  cases i with
  | sendStore | queryBytes | queryByte | queryRange | queryBulk => rfl
  | _ => cases hi

theorem decodeCommand_encode (c : Config) {i : Instr} (hi : i.isCommand = true) :
    decodeCommand (encode c i) = .ok i := by
  cases i with
  | sendStore | queryRange => rfl
  | queryBytes addr len => exact congrArg (Except.ok ∘ Instr.queryBytes addr) (be32_be32Bytes len)
  | queryByte base off => exact congrArg (Except.ok ∘ Instr.queryByte base) (be32_be32Bytes off)
  | queryBulk addr size delay => exact congrArg (Except.ok ∘ Instr.queryBulk addr size) (be16_extractLsb' delay)
  | _ => cases hi

/-- Of the decoder's branches the five rows of R68 answer an operation, and each writes its operands back. -/
theorem encode_of_decodeCommand (c : Config) {bytes : List Byte} {i : Instr} (h : decodeCommand bytes = .ok i) :
    i.isCommand = true ∧ encode c i = bytes := by
  unfold decodeCommand at h
  repeat' split at h
  all_goals cases h
  all_goals
    subst_vars
    exact ⟨rfl, by simp [encode, quadBytes]⟩

/-- The illegal encodings of R72, rows 1 and 2: no command, an unknown code, a length that is not the code's. -/
def IllegalEncoding (bytes : List Byte) : Prop :=
  bytes = [] ∨
  (∃ code, bytes.head? = some code ∧ (code = 0 ∨ 6 ≤ code.toNat)) ∨
  (bytes.head? = some 1 ∧ bytes.length < 5) ∨
  ((bytes.head? = some 2 ∨ bytes.head? = some 3 ∨ bytes.head? = some 4) ∧ bytes.length ≠ 9) ∨
  (bytes.head? = some 5 ∧ bytes.length ≠ 11)

theorem encode_not_illegal (c : Config) {i : Instr} (hi : i.isCommand = true) : ¬ IllegalEncoding (encode c i) := by
  cases i with
  | sendStore | queryBytes | queryByte | queryRange | queryBulk => simp [IllegalEncoding, encode]
  | _ => cases hi

/-- Bytes with a code and a length of R68 are the code's row with some operands. -/
theorem exists_command_of_not_illegal {bytes : List Byte} (h : ¬ IllegalEncoding bytes) :
    ∃ i, decodeCommand bytes = .ok i := by
  obtain _ | ⟨code, operands⟩ := bytes
  · exact absurd (.inl rfl) h
  have hcode : code = 1 ∨ code = 2 ∨ code = 3 ∨ code = 4 ∨ code = 5 := by
    have hknown : ¬ (code = 0 ∨ 6 ≤ code.toNat) := fun hc => h (.inr (.inl ⟨code, rfl, hc⟩))
    bv_omega
  rcases hcode with rfl | rfl | rfl | rfl | rfl
  · have hlen : 4 ≤ operands.length := by simpa [IllegalEncoding] using h
    obtain ⟨addr, data, rfl⟩ := exists_quadBytes_append hlen
    exact ⟨.sendStore addr data, rfl⟩
  · have hlen : operands.length = 8 := by simpa [IllegalEncoding] using h
    obtain ⟨addr, len, rfl⟩ := exists_two_quads hlen
    exact ⟨.queryBytes addr (be32 len), rfl⟩
  · have hlen : operands.length = 8 := by simpa [IllegalEncoding] using h
    obtain ⟨base, off, rfl⟩ := exists_two_quads hlen
    exact ⟨.queryByte base (be32 off), rfl⟩
  · have hlen : operands.length = 8 := by simpa [IllegalEncoding] using h
    obtain ⟨first, last, rfl⟩ := exists_two_quads hlen
    exact ⟨.queryRange first last, rfl⟩
  · have hlen : operands.length = 10 := by simpa [IllegalEncoding] using h
    obtain ⟨addr, size, hi, lo, rfl⟩ := exists_two_quads_and_word hlen
    exact ⟨.queryBulk addr size (be16 hi lo), rfl⟩

theorem decodeCommand_error_iff {bytes : List Byte} :
    (∃ e, decodeCommand bytes = .error e) ↔ IllegalEncoding bytes := by
  constructor
  · rintro ⟨e, he⟩
    by_contra hlegal
    obtain ⟨i, hi⟩ := exists_command_of_not_illegal hlegal
    cases hi.symm.trans he
  · intro hillegal
    cases hd : decodeCommand bytes with
    | error e => exact ⟨e, rfl⟩
    | ok i =>
      obtain ⟨hi, rfl⟩ := encode_of_decodeCommand Config.atReset hd
      exact absurd hillegal (encode_not_illegal _ hi)

/-- Settles O13: bytes with a legal code and length decode, and no command is encoded as an illegal encoding. -/
theorem undecodableCommandsAreTheIllegalEncodings : Obligations.UndecodableCommandsAreTheIllegalEncodings :=
  fun _ => decodeCommand_error_iff

/-! ### Events in the trace form (R70, log 9) -/

@[simp] theorem eventOfTrace_rxMsg (kind : MsgKind) (msg : List Byte) :
    eventOfTrace (0x10 :: kindByte kind :: msg) = .message kind msg := by
  cases kind <;> rfl

theorem eventOfTrace_command (c : Config) {i : Instr} (hi : i.isCommand = true) :
    eventOfTrace (encode c i) = .command (encode c i) := by
  cases i with
  | sendStore | queryBytes | queryByte | queryRange | queryBulk => rfl
  | _ => cases hi

/-- Everything that trace bytes can stand for. -/
theorem eventOfTrace_cases (bytes : List Byte) :
    (bytes = [0x11] ∧ eventOfTrace bytes = .tick) ∨
    (bytes = [0x1F] ∧ eventOfTrace bytes = .reset) ∨
    (∃ kind msg, bytes = 0x10 :: kindByte kind :: msg ∧ eventOfTrace bytes = .message kind msg) ∨
    eventOfTrace bytes = .command bytes := by
  unfold eventOfTrace
  split
  · exact .inr (.inr (.inr rfl))
  split
  · next htick =>
    obtain ⟨rfl, rfl⟩ := htick
    exact .inl ⟨rfl, rfl⟩
  split
  · next hreset =>
    obtain ⟨rfl, rfl⟩ := hreset
    exact .inr (.inl ⟨rfl, rfl⟩)
  split
  · next hrx =>
    subst hrx
    split
    · exact .inr (.inr (.inr rfl))
    split
    · next hsysex => exact .inr (.inr (.inl ⟨.sysex, _, by rw [hsysex]; rfl, rfl⟩))
    split
    · next hother => exact .inr (.inr (.inl ⟨.other, _, by rw [hother]; rfl, rfl⟩))
    · exact .inr (.inr (.inr rfl))
  · exact .inr (.inr (.inr rfl))

theorem decode_trace_command (c : Config) {i : Instr} (hi : i.isCommand = true) :
    decode c .trace (encode c i) = .ok i := by
  rw [decode, eventOfTrace_command c hi]
  exact decodeCommand_encode c hi

theorem decode_trace_encode (c : Config) {i : Instr} (hi : i.channel = .trace) :
    decode c .trace (encode c i) = .ok i := by
  cases i with
  | rxMsg kind msg => exact congrArg decodeEvent (eventOfTrace_rxMsg kind msg)
  | tick | reset => rfl
  | sendStore | queryBytes | queryByte | queryRange | queryBulk => exact decode_trace_command c rfl
  | _ => cases hi

theorem encode_of_decode_trace {c : Config} {bytes : List Byte} {i : Instr} (h : decode c .trace bytes = .ok i) :
    i.channel = .trace ∧ encode c i = bytes := by
  rw [decode] at h
  obtain ⟨hb, he⟩ | ⟨hb, he⟩ | ⟨kind, msg, hb, he⟩ | he := eventOfTrace_cases bytes <;> rw [he] at h
  · cases h
    exact ⟨rfl, hb.symm⟩
  · cases h
    exact ⟨rfl, hb.symm⟩
  · cases h
    exact ⟨rfl, hb.symm⟩
  · obtain ⟨hi, hb⟩ := encode_of_decodeCommand c h
    exact ⟨channel_of_isCommand hi, hb⟩

/-! ### Frames (R61 to R63) -/

theorem decodeInbound_chunk (head : FrameHead) (addr : Quad) (data : List Byte) (csum : Byte) :
    decodeInbound (headBytes head ++ quadBytes addr ++ data ++ [csum]) = .ok (.frameChunk head addr data csum) := by
  simp [decodeInbound, headBytes, quadBytes]

theorem encode_of_decodeInbound (c : Config) {bytes : List Byte} {i : Instr} (h : decodeInbound bytes = .ok i) :
    i.channel = .inbound ∧ encode c i = bytes := by
  unfold decodeInbound at h
  repeat' split at h
  all_goals cases h
  next hrest => exact ⟨rfl, by rw [append_of_splitLast hrest]; rfl⟩

theorem decodeOutbound_storeFrame {c : Config} (addr : Quad) {data : List Byte} (hfits : storeDataFits c data = true) :
    decodeOutbound c (frameBytes c.pfxStore (quadBytes addr ++ data)) = .ok (.frameStore addr data) := by
  simp [decodeOutbound, frameBytes, headBytes, quadBytes, hfits]

theorem decodeOutbound_queryFrame {c : Config} (hne : c.pfxStore ≠ c.pfxQuery) (addr length : Quad) :
    decodeOutbound c (frameBytes c.pfxQuery (quadBytes addr ++ quadBytes length)) = .ok (.frameQuery addr length) := by
  have hquery : c.pfxQuery ≠ c.pfxStore := hne.symm
  simp [decodeOutbound, frameBytes, headBytes, quadBytes, splitLast, hquery]

theorem encode_of_decodeOutbound {c : Config} {bytes : List Byte} {i : Instr} (h : decodeOutbound c bytes = .ok i) :
    i.channel = .outbound ∧ encode c i = bytes := by
  unfold decodeOutbound at h
  split at h
  · split at h
    · cases h
    next body csum hrest =>
    dsimp only at h
    split_ifs at h with hsum hstore hfits hquery
    · cases h
      refine ⟨rfl, ?_⟩
      rw [append_of_splitLast hrest, ← not_ne_iff.1 hsum]
      simp [encode, frameBytes, ← hstore, headBytes, quadBytes]
    · split at h
      · cases h
        refine ⟨rfl, ?_⟩
        rw [append_of_splitLast hrest, ← not_ne_iff.1 hsum]
        simp [encode, frameBytes, ← hquery, headBytes, quadBytes]
      · cases h
  · cases h

/-! ### The statements -/

/-- Settles O10, channel by channel: the equation of each encoding under its decoder. -/
theorem decodeUndoesEncode : Obligations.DecodeUndoesEncode := by
  intro c i hout
  cases i with
  | sendStore | queryBytes | queryByte | queryRange | queryBulk | rxMsg | tick | reset =>
    exact decode_trace_encode c rfl
  | frameStore addr data => exact decodeOutbound_storeFrame addr (hout rfl).2
  | frameQuery addr length => exact decodeOutbound_queryFrame (hout rfl).1 addr length
  | frameChunk head addr data csum => exact decodeInbound_chunk head addr data csum

/-- Settles O11, channel by channel: the inversion of each decoder. -/
theorem encodeUndoesDecode : Obligations.EncodeUndoesDecode := by
  intro c channel bytes i h
  cases channel with
  | trace => exact encode_of_decode_trace h
  | outbound => exact encode_of_decodeOutbound h
  | inbound => exact encode_of_decodeInbound c h

/-- Settles O12, word by word. -/
theorem writtenOutWordsDecode : Obligations.WrittenOutWordsDecode :=
  ⟨rfl, rfl, rfl, rfl, rfl, rfl, rfl, rfl⟩

end Sys2Proof
end

section
/-! PROOFS. The frames on the wire: their fields, what the block stores of an inbound chunk, and what it sends
(R54, R60 to R64). -/

namespace Sys2Proof.Machine

/-! ### The fields of a frame (R60 to R63) -/

theorem storeDataFits_iff {c : Config} {data : List Byte} :
    storeDataFits c data = true ↔ data.length ≤ c.txDataMax := decide_eq_true_iff

theorem exec_frameStore (addr : Quad) (data : List Byte) (s : State) :
    exec (.frameStore addr data) s = .next (whenIdle s
      (if storeDataFits s.cfg data then emit (.tx (encode s.cfg (.frameStore addr data))) s else refuse s)) := rfl

theorem exec_frameQuery (addr length : Quad) (s : State) :
    exec (.frameQuery addr length) s =
      .next (whenIdle s (emit (.tx (encode s.cfg (.frameQuery addr length))) s)) := rfl

/-- Settles O21: the arm's three cases, then the fields as slices of head, payload and checksum. -/
theorem storeFrameHasItsFields : Obligations.StoreFrameHasItsFields := by
  intro addr data s
  rw [exec_frameStore]
  refine ⟨fun hidle hfits => ?_, fun hidle hlong => ?_, fun hwait => ?_, Laws.Length.frameStore addr data s.cfg, ?_⟩
  · rw [whenIdle_idle hidle, if_pos (storeDataFits_iff.2 hfits)]
    rfl
  · rw [whenIdle_idle hidle, if_neg (mt storeDataFits_iff.1 (Nat.not_le_of_lt hlong)), refuse_eq_refused]
  · rw [whenIdle_waiting hwait]
  · have hdrop (n : Nat) : (encode s.cfg (.frameStore addr data)).drop (11 + n) =
        (data ++ [checksum (quadBytes addr ++ data)]).drop n := by
      rw [← List.drop_drop]
      rfl
    refine ⟨rfl, rfl, ?_, ?_⟩
    · simpa using congrArg (List.take data.length) (hdrop 0)
    · simpa using hdrop data.length

/-- Settles O22: the arm's two cases; every field of a query frame has a fixed length, so each slice computes. -/
theorem queryFrameHasItsFields : Obligations.QueryFrameHasItsFields := by
  intro addr length s
  rw [exec_frameQuery]
  refine ⟨fun hidle => ?_, fun hwait => ?_, rfl, rfl, rfl, rfl, rfl⟩
  · rw [whenIdle_idle hidle]
    rfl
  · rw [whenIdle_waiting hwait]

/-! ### Inbound chunks (R63, R64) -/

@[simp] theorem drop_headBytes_append (head : FrameHead) (l : List Byte) : (headBytes head ++ l).drop 7 = l := rfl

theorem exists_chunk {f : List Byte} (h : 12 ≤ f.length) :
    ∃ head addr data csum, f = headBytes head ++ quadBytes addr ++ data ++ [csum] := by
  obtain ⟨head, rest, rfl⟩ := exists_headBytes_append (Nat.le_trans (by decide) h)
  obtain ⟨addr, body, rfl⟩ := exists_quadBytes_append (l := rest) (by simp at h; omega)
  have hbody : body ≠ [] := by
    rintro rfl
    simp at h
  obtain ⟨data, csum, rfl⟩ := (List.eq_nil_or_concat body).resolve_left hbody
  exact ⟨head, addr, data, csum, by simp⟩

theorem slice_between {pre : List Byte} (hpre : 1 ≤ pre.length) (body : List Byte) (last : Byte) :
    slice (pre ++ body ++ [last]) pre.length ((pre ++ body ++ [last]).length - 2) = body := by
  have hcount : (pre ++ body ++ [last]).length - 2 + 1 - pre.length = body.length := by simp; omega
  rw [slice, hcount, List.append_assoc, List.drop_left, List.take_left]

theorem getD_append_singleton_last (front : List Byte) (last : Byte) :
    (front ++ [last]).getD ((front ++ [last]).length - 1) 0 = last := by
  simp [List.getD_eq_getElem?_getD]

theorem frameFields_chunk (head : FrameHead) (addr : Quad) (data : List Byte) (csum : Byte) :
    frameFields (headBytes head ++ quadBytes addr ++ data ++ [csum]) =
      ⟨addr, data, csum == checksum (quadBytes addr ++ data)⟩ := by
  have hdata := slice_between (pre := headBytes head ++ quadBytes addr) (by simp) data csum
  have hpayload := slice_between (pre := headBytes head) (by simp) (quadBytes addr ++ data) csum
  rw [← List.append_assoc] at hpayload
  have hverify : verify (headBytes head ++ quadBytes addr ++ data ++ [csum]) =
      (csum == checksum (quadBytes addr ++ data)) := by
    rw [verify, ← headBytes_length head, hpayload, getD_append_singleton_last, BEq.comm]
  exact congr (congr (congrArg Entry.mk rfl) hdata) hverify

/-- The ingestion step on a chunk's bytes; the head plays no part (R64). -/
theorem ingest_chunk (head : FrameHead) (addr : Quad) (data : List Byte) (csum : Byte) (s : State) :
    ingest .sysex (headBytes head ++ quadBytes addr ++ data ++ [csum]) s =
      ingestFields ⟨addr, data, csum == checksum (quadBytes addr ++ data)⟩ (s.cfg.bufPayloadMax < data.length) s := by
  have hlong : ¬ (headBytes head ++ quadBytes addr ++ data ++ [csum]).length < 12 := by simp; omega
  rw [ingest, if_neg hlong, frameFields_chunk]

theorem appendAndTest_buf (e : Entry) (s : State) : (appendAndTest e s).buf = s.buf ++ [e] := by
  by_cases h : CompletesWith s
  · rw [appendAndTest_completes h]
    rfl
  · rw [appendAndTest_continues h]
    rfl

theorem appendAndTest_cnt (e : Entry) (s : State) : (appendAndTest e s).cnt = s.cnt + 1 := by
  by_cases h : CompletesWith s
  · rw [appendAndTest_completes h]
    rfl
  · rw [appendAndTest_continues h]
    rfl

theorem ingestFields_appends {e : Entry} {tooLong : Bool} {s : State} (hok : e.ok = true ∨ s.cfg.dropBadCsum = false)
    (hroom : s.buf.length ≠ s.cfg.bufChunks) (hfits : tooLong = false) :
    (ingestFields e tooLong s).buf = s.buf ++ [e] ∧ (ingestFields e tooLong s).cnt = s.cnt + 1 := by
  obtain ⟨-, -, -, -, -, hcnt, -, hbuf, -⟩ := checked_frame e s
  rcases ingestFields_cases e tooLong s with ⟨hbad, hdrop, -⟩ | ⟨-, hfull, -⟩ | ⟨-, -, -, happend⟩
  · simp [hbad, hdrop] at hok
  · simp [hroom, hfits] at hfull
  · rw [happend, appendAndTest_buf, appendAndTest_cnt, hbuf, hcnt]
    exact ⟨rfl, rfl⟩

/-- Settles O23: `ingest_chunk` gives the fields, and a chunk that fits is appended with them. -/
theorem inboundChunkStoresItsFields : Obligations.InboundChunkStoresItsFields := by
  intro head addr data csum s
  refine ⟨rfl, fun hok hroom hfits => ⟨_, rfl, ?_⟩⟩
  rw [ingest_chunk]
  exact ingestFields_appends (by simpa using hok) hroom (by simpa using hfits)

/-- Settles O30: both messages are runts, or chunks with the same bytes after the head. -/
theorem inboundPrefixIsNotExamined : Obligations.InboundPrefixIsNotExamined := by
  intro f g s hlen hdrop
  have hstep : ingest .sysex f s = ingest .sysex g s := by
    by_cases hrunt : f.length < 12
    · rw [ingest, ingest, if_pos hrunt, if_pos (hlen ▸ hrunt)]
    obtain ⟨head, addr, data, csum, rfl⟩ := exists_chunk (Nat.le_of_not_lt hrunt)
    obtain ⟨head', rest, rfl⟩ := exists_headBytes_append (l := g) (by omega)
    obtain rfl : quadBytes addr ++ (data ++ [csum]) = rest := by simpa using hdrop
    calc ingest .sysex (headBytes head ++ quadBytes addr ++ data ++ [csum]) s
      _ = ingest .sysex (headBytes head' ++ quadBytes addr ++ data ++ [csum]) s := by rw [ingest_chunk, ingest_chunk]
      _ = _ := by simp only [List.append_assoc]
  exact congrArg Host.Outcome.next hstep

/-! ### What a step sends (R54, R60, R151) -/

/-- The outputs are those before and then some, none of them a frame. -/
def Quiet (s t : State) : Prop := ∃ added, t.out = s.out ++ added ∧ added.filter Spec.isTx = []

theorem Quiet.refl (s : State) : Quiet s s := ⟨[], by simp, rfl⟩

theorem Quiet.emit {s t : State} (h : Quiet s t) {o : Output} (ho : Spec.isTx o = false) : Quiet s (emit o t) := by
  obtain ⟨added, hout, hquiet⟩ := h
  exact ⟨added ++ [o], by simp [hout], by simp [hquiet, ho]⟩

theorem Quiet.raise {s t : State} (h : Quiet s t) (e : ErrorKind) : Quiet s (raise e t) :=
  Quiet.emit (t := { t with status := setErrorFlag e t.status }) h rfl

theorem Quiet.endSessionOk {s t : State} (h : Quiet s t) : Quiet s (endSessionOk t) :=
  Quiet.emit (o := .result .ok (resultValue t)) h rfl

theorem refuse_quiet (s : State) : Quiet s (refuse s) := ((Quiet.refl s).raise .argument).emit rfl

theorem ingest_quiet (k : MsgKind) (f : List Byte) (s : State) : Quiet s (ingest k f s) :=
  ingest_preserves (P := Quiet s) (fun e _ h => h.raise e) (fun _ _ _ _ h => h) (fun _ h => h.endSessionOk) k f
    (.refl s)

/-- In `IDLE` one frame with one of the two prefixes is sent, and then no other. -/
def SendsOne (s t : State) : Prop :=
  s.fsm = .idle ∧ ∃ head payload, (head = s.cfg.pfxStore ∨ head = s.cfg.pfxQuery) ∧ 4 ≤ payload.length ∧
    Quiet (emit (.tx (frameBytes head payload)) s) t

theorem encode_of_outbound (c : Config) {i : Instr} (hi : i.channel = .outbound) :
    ∃ head payload, (head = c.pfxStore ∨ head = c.pfxQuery) ∧ 4 ≤ payload.length ∧
      encode c i = frameBytes head payload := by
  cases i with
  | frameStore addr data => exact ⟨_, quadBytes addr ++ data, .inl rfl, by simp, rfl⟩
  | frameQuery addr length => exact ⟨_, quadBytes addr ++ quadBytes length, .inr rfl, by simp, rfl⟩
  | _ => cases hi

theorem Effect.quiet_or_sendsOne {s t : State} {i : Instr} (h : Effect s i t) : Quiet s t ∨ SendsOne s t := by
  cases h with
  | held | tickIdle | tickCounts | reset => exact .inl (.refl s)
  | refused => exact .inl (refuse_quiet s)
  | message | chunk => exact .inl (ingest_quiet _ _ s)
  | tickTimesOut => exact .inl (((Quiet.refl s).raise .timeout).emit rfl)
  | tickEndsDelay => exact .inl (Quiet.refl s).endSessionOk
  | stored addr data hidle => exact .inr ⟨hidle, _, quadBytes addr ++ data, .inl rfl, by simp, .refl _⟩
  | counted _ _ addr length _ _ hidle =>
    exact .inr ⟨hidle, _, quadBytes addr ++ quadBytes length, .inr rfl, by simp, .refl _⟩
  | bulkAtOnce addr size hidle =>
    exact .inr ⟨hidle, _, quadBytes addr ++ quadBytes size, .inr rfl, by simp, (Quiet.refl _).endSessionOk⟩
  | bulkWaits addr size hidle =>
    exact .inr ⟨hidle, _, quadBytes addr ++ quadBytes size, .inr rfl, by simp, .refl _⟩
  | frameSent hi hidle =>
    obtain ⟨head, payload, hhead, hlen, he⟩ := encode_of_outbound s.cfg hi
    exact .inr ⟨hidle, head, payload, hhead, hlen, he ▸ .refl _⟩

theorem step_quiet_or_sendsOne {s t : State} (h : Goes s t) : Quiet s t ∨ SendsOne s t := by
  unfold Goes at h
  obtain ⟨-, hs⟩ | ⟨_, rest, i, -, -, hs⟩ | ⟨_, rest, _, -, -, hs⟩ := step_cases s <;> rw [hs] at h
  · cases h
    exact .inl (.refl s)
  · exact (exec_effect h).quiet_or_sendsOne
  · cases h
    exact .inl (refuse_quiet { s with inbox := rest })

/-- Settles O42: the new outputs hold no frame, or the one frame comes first. -/
theorem everySentFrameIsWellFramed : Obligations.EverySentFrameIsWellFramed := by
  intro s t h f hf
  have hsent : Output.tx f ∈ (t.out.drop s.out.length).filter Spec.isTx := List.mem_filter.2 ⟨hf, rfl⟩
  obtain ⟨added, hout, hquiet⟩ | ⟨hidle, head, payload, hhead, hlen, added, hout, hquiet⟩ := step_quiet_or_sendsOne h
  · simp [hout, hquiet] at hsent
  have htx : (t.out.drop s.out.length).filter Spec.isTx = [.tx (frameBytes head payload)] := by
    have hnew : t.out.drop s.out.length = .tx (frameBytes head payload) :: added := by simp [hout]
    rw [hnew, List.filter_cons_of_pos rfl, hquiet]
  obtain rfl : f = frameBytes head payload := by simpa [htx] using hsent
  refine ⟨hidle, ⟨payload, hlen, ?_⟩, by rw [htx]; rfl⟩
  rcases hhead with rfl | rfl
  · exact .inl rfl
  · exact .inr rfl

end Sys2Proof.Machine
end

section
/-! PROOFS. The checksum and the validator as sums modulo 128 (R90, R91). -/

namespace Sys2Proof.Machine

/-! ### The checksum (R90) -/

theorem toNat_and_0x7F (b : Byte) : (b &&& 0x7F).toNat = b.toNat % 128 := Nat.and_two_pow_sub_one_eq_mod b.toNat 7

theorem sumByte_toNat (sum b : Byte) : (sumByte sum b).toNat = (sum.toNat + b.toNat) % 128 := by
  rw [sumByte, toNat_and_0x7F, BitVec.toNat_add, Nat.mod_mod_of_dvd _ (by decide)]

theorem sum7_append_singleton (p : List Byte) (b : Byte) : sum7 (p ++ [b]) = sumByte (sum7 p) b :=
  List.foldl_concat _ _ _ _

/-- The accumulator after `p`: each byte is taken last in turn, so the induction is from the right. -/
theorem sum7_toNat (p : List Byte) : (sum7 p).toNat = (p.map BitVec.toNat).sum % 128 := by
  induction p using List.reverseRecOn with
  | nil => rfl
  | append_singleton p b ih =>
    rw [sum7_append_singleton, sumByte_toNat, ih, Nat.mod_add_mod]
    simp

theorem checksum_toNat (p : List Byte) : (checksum p).toNat = (128 - (p.map BitVec.toNat).sum % 128) % 128 := by
  have hsub : (0x80 - sum7 p).toNat = (256 - (sum7 p).toNat + 128) % 256 := BitVec.toNat_sub _ _
  rw [checksum, toNat_and_0x7F, hsub, sum7_toNat]
  omega

/-- A checksum depends on the byte sum modulo 128 only. -/
theorem checksum_congr {p q : List Byte}
    (h : (p.map BitVec.toNat).sum % 128 = (q.map BitVec.toNat).sum % 128) : checksum p = checksum q :=
  BitVec.eq_of_toNat_eq (by rw [checksum_toNat, checksum_toNat, h])

/-- The checksum is the one digit that completes the byte sum to a multiple of 128. -/
theorem checksum_eq_iff (p : List Byte) (b : Byte) :
    checksum p = b ↔ b.toNat < 128 ∧ ((p.map BitVec.toNat).sum + b.toNat) % 128 = 0 := by
  rw [← BitVec.toNat_inj, checksum_toNat]
  omega

theorem sum_map_and_0x7F_mod (p : List Byte) :
    ((p.map fun b => b &&& 0x7F).map BitVec.toNat).sum % 128 = (p.map BitVec.toNat).sum % 128 := by
  induction p with
  | nil => rfl
  | cons b bs ih =>
    simp only [List.map_cons, List.sum_cons, toNat_and_0x7F]
    omega

/-- Settles O1: `checksum_toNat` gives the value, `checksum_eq_iff` its range and the zero sum, and masking the bytes or
permuting them leaves the sum modulo 128 (`checksum_congr`). -/
theorem checksumIsNegatedSumModulo128 : Obligations.ChecksumIsNegatedSumModulo128 := by
  refine ⟨fun p => ?_, fun p q hperm => ?_, by decide, by decide, by decide⟩
  · obtain ⟨hlt, hzero⟩ := (checksum_eq_iff p (checksum p)).1 rfl
    exact ⟨sum7_toNat p, checksum_toNat p, hlt, hzero, checksum_congr (sum_map_and_0x7F_mod p)⟩
  · exact checksum_congr (congrArg (· % 128) (hperm.map BitVec.toNat).sum_nat)

/-! ### The validator (R91) -/

theorem verify_chunk (head : FrameHead) (addr : Quad) (data : List Byte) (csum : Byte) :
    verify (headBytes head ++ quadBytes addr ++ data ++ [csum]) = (csum == checksum (quadBytes addr ++ data)) :=
  congrArg Entry.ok (frameFields_chunk head addr data csum)

/-- Settles O2: `verify_chunk` compares the checksum with the last byte, and `checksum_eq_iff` says when they agree. -/
theorem verifyChecksInboundPayload : Obligations.VerifyChecksInboundPayload := by
  refine ⟨fun f last hlen hlast => ?_, fun h => ⟨?_, ?_⟩⟩
  · obtain ⟨head, addr, data, csum, rfl⟩ := exists_chunk hlen
    obtain rfl : csum = last := by simpa using hlast
    have hdrop : (headBytes head ++ quadBytes addr ++ data ++ [csum]).drop 7 = quadBytes addr ++ data ++ [csum] := by
      simp
    have hverify : verify (headBytes head ++ quadBytes addr ++ data ++ [csum]) = true ↔
        checksum (quadBytes addr ++ data) = csum := by
      rw [verify_chunk, beq_iff_eq, eq_comm]
    have hsum : ((quadBytes addr ++ data ++ [csum]).map BitVec.toNat).sum =
        ((quadBytes addr ++ data).map BitVec.toNat).sum + csum.toNat := by simp [Nat.add_assoc]
    rw [← Bool.not_eq_true, hverify, hdrop, List.dropLast_concat, checksum_eq_iff, hsum]
    exact ⟨Iff.rfl, fun hhigh h => absurd h.1 (Nat.not_lt.2 hhigh), fun hdigit => and_iff_right hdigit⟩
  · exact (verify_chunk h ⟨0x60, 0x00, 0x00, 0x21⟩ [0x32] 0x4D).trans (by decide)
  · exact (verify_chunk h ⟨0x60, 0x00, 0x00, 0x21⟩ [0x32] 0x4C).trans (by decide)

end Sys2Proof.Machine
end

section
/-! PROOFS. Scalar addresses: digits and weights, the encoder and the decoder, the effective address and the span
(R92 to R95, R97), and the commands that refuse an operand outside them. -/

namespace Sys2Proof.Machine

/-! ### The encoder (R92) -/

theorem encodeScalar_toNat (n : BitVec 28) :
    (encodeScalar n).b0.toNat = n.toNat / 2097152 ∧
    (encodeScalar n).b1.toNat = n.toNat / 16384 % 128 ∧
    (encodeScalar n).b2.toNat = n.toNat / 128 % 128 ∧
    (encodeScalar n).b3.toNat = n.toNat % 128 := by
  have hslice (k : Nat) : ((n.extractLsb' k 7).setWidth 8).toNat = n.toNat / 2 ^ k % 128 := by
    rw [BitVec.toNat_setWidth, BitVec.extractLsb'_toNat, Nat.shiftRight_eq_div_pow]
    omega
  have hn : n.toNat < 268435456 := n.isLt
  refine ⟨(hslice 21).trans ?_, hslice 14, hslice 7, (hslice 0).trans ?_⟩ <;> omega

theorem encodeScalar_digits (n : BitVec 28) : Spec.Digits (encodeScalar n) := by
  obtain ⟨h0, h1, h2, h3⟩ := encodeScalar_toNat n
  have hn : n.toNat < 268435456 := n.isLt
  refine ⟨?_, ?_, ?_, ?_⟩ <;> omega

/-- Settles O3: each byte is a 7-bit slice. -/
theorem encodeScalarGivesBase128Digits : Obligations.EncodeScalarGivesBase128Digits := by
  refine ⟨fun n => ?_, by decide⟩
  obtain ⟨h0, h1, h2, h3⟩ := encodeScalar_toNat n
  exact ⟨h0, h1, h2, h3, encodeScalar_digits n⟩

/-! ### The weight of four digits (R41, R93) -/

theorem weight_lt {q : Quad} (hq : Spec.Digits q) : Spec.weight q < 268435456 := by
  obtain ⟨h0, h1, h2, h3⟩ := hq
  rw [Spec.weight]
  omega

theorem weight_encodeScalar (n : BitVec 28) : Spec.weight (encodeScalar n) = n.toNat := by
  obtain ⟨h0, h1, h2, h3⟩ := encodeScalar_toNat n
  rw [Spec.weight, h0, h1, h2, h3]
  omega

theorem weight_inj {p q : Quad} (hp : Spec.Digits p) (hq : Spec.Digits q) (h : Spec.weight p = Spec.weight q) :
    p = q := by
  obtain ⟨p0, p1, p2, p3⟩ := p
  obtain ⟨q0, q1, q2, q3⟩ := q
  simp only [Spec.Digits, Spec.weight, Quad.mk.injEq, ← BitVec.toNat_inj] at *
  omega

/-- Digits are ordered as bytes the way their weights are ordered as numbers. -/
theorem weight_lt_weight_iff {p q : Quad} (hp : Spec.Digits p) (hq : Spec.Digits q) :
    Spec.weight p < Spec.weight q ↔ quadBytes p < quadBytes q := by
  obtain ⟨p0, p1, p2, p3⟩ := p
  obtain ⟨q0, q1, q2, q3⟩ := q
  simp only [Spec.Digits, Spec.weight, quadBytes, List.cons_lt_cons_iff, List.not_lt_nil, and_false, or_false,
    BitVec.lt_def, ← BitVec.toNat_inj] at *
  omega

/-! ### The decoder (R93, R94) -/

theorem decodeScalar_toNat {q : Quad} (hq : Spec.Digits q) : (decodeScalar q).toNat = Spec.weight q := by
  have happend {n : Nat} (x : BitVec n) (b : Byte) (hb : b.toNat < 128) :
      (x ++ b.extractLsb' 0 7).toNat = x.toNat * 128 + b.toNat := by
    have hlow : (b.extractLsb' 0 7).toNat = b.toNat := Nat.mod_eq_of_lt hb
    rw [BitVec.toNat_append, ← Nat.shiftLeft_add_eq_or_of_lt (BitVec.isLt _), Nat.shiftLeft_eq, hlow]
  obtain ⟨h0, h1, h2, h3⟩ := hq
  have hhigh : (q.b0.extractLsb' 0 7).toNat = q.b0.toNat := Nat.mod_eq_of_lt h0
  rw [decodeScalar, happend _ _ h3, happend _ _ h2, happend _ _ h1, hhigh, Spec.weight]
  omega

theorem decodeScalar_encodeScalar (n : BitVec 28) : decodeScalar (encodeScalar n) = n :=
  BitVec.eq_of_toNat_eq ((decodeScalar_toNat (encodeScalar_digits n)).trans (weight_encodeScalar n))

theorem encodeScalar_decodeScalar {q : Quad} (hq : Spec.Digits q) : encodeScalar (decodeScalar q) = q :=
  weight_inj (encodeScalar_digits _) hq ((weight_encodeScalar _).trans (decodeScalar_toNat hq))

/-- Settles O5: both functions keep the weight, four digits have it alone (`weight_inj`), and it orders them as bytes
(`weight_lt_weight_iff`). -/
theorem scalarRoundTripIsExact : Obligations.ScalarRoundTripIsExact := by
  refine ⟨decodeScalar_encodeScalar, fun _ => encodeScalar_decodeScalar, fun n m => ?_, fun p q hp hq => ?_⟩
  · rw [← weight_lt_weight_iff (encodeScalar_digits n) (encodeScalar_digits m), weight_encodeScalar,
      weight_encodeScalar, BitVec.lt_def]
  · rw [← weight_lt_weight_iff hp hq, BitVec.lt_def, decodeScalar_toNat hp, decodeScalar_toNat hq]

/-! ### Operands that are refused (R69, R118) -/

theorem allDigits_iff {q : Quad} : allDigits q = true ↔ Spec.Digits q := by
  simp [allDigits, isDigit, Spec.Digits, BitVec.lt_def, and_assoc]

theorem byteAddress_of_digits {base : Quad} (hb : Spec.Digits base) (off : BitVec 32) :
    byteAddress base off = effectiveAddress base off := if_pos (allDigits_iff.2 hb)

theorem byteAddress_of_not_digits {base : Quad} (hb : ¬ Spec.Digits base) (off : BitVec 32) :
    byteAddress base off = none := if_neg (mt allDigits_iff.1 hb)

theorem rangeSpan_of_digits {first last : Quad} (hf : Spec.Digits first) (hl : Spec.Digits last) :
    rangeSpan first last = span first last := by
  rw [rangeSpan, allDigits_iff.2 hf, allDigits_iff.2 hl]
  rfl

theorem rangeSpan_of_not_digits {first last : Quad} (h : ¬ (Spec.Digits first ∧ Spec.Digits last)) :
    rangeSpan first last = none :=
  if_neg fun hd => h (((Bool.and_eq_true _ _).mp hd).imp allDigits_iff.1 allDigits_iff.1)

theorem exec_queryByte (base : Quad) (off : BitVec 32) (s : State) :
    exec (.queryByte base off) s = execQueryByte base off s := rfl

theorem exec_queryRange (first last : Quad) (s : State) :
    exec (.queryRange first last) s = execQueryRange first last s := rfl

theorem exec_queryByte_refused {base : Quad} {off : BitVec 32} {s : State} (hidle : s.fsm = .idle)
    (h : byteAddress base off = none) : exec (.queryByte base off) s = .next (Spec.refused s) := by
  rw [exec_queryByte, execQueryByte, h, whenIdle_idle hidle, refuse_eq_refused]

theorem exec_queryRange_refused {first last : Quad} {s : State} (hidle : s.fsm = .idle)
    (h : rangeSpan first last = none) : exec (.queryRange first last) s = .next (Spec.refused s) := by
  rw [exec_queryRange, execQueryRange, h, whenIdle_idle hidle, refuse_eq_refused]

/-- Settles O4: `decodeScalar_toNat` gives the weight, and an operand with a byte that is no digit has no address and no
span. -/
theorem decodeScalarWeighsDigits : Obligations.DecodeScalarWeighsDigits := by
  refine ⟨fun q hq => ⟨?_, rfl⟩, fun q r off s hidle hq => ⟨?_, ?_, ?_⟩, by decide, by decide⟩
  · rw [decodeScalar_toNat hq, Spec.weight]
  · exact exec_queryByte_refused hidle (byteAddress_of_not_digits hq off)
  · exact exec_queryRange_refused hidle (rangeSpan_of_not_digits fun h => hq h.1)
  · exact exec_queryRange_refused hidle (rangeSpan_of_not_digits fun h => hq h.2)

/-! ### The effective address and the span (R95, R97) -/

theorem inRange28_none {lo s : Int} (h : s < lo ∨ 268435455 < s) : inRange28 lo s = none := if_pos h

theorem inRange28_some {lo s : Int} (hlo : 0 ≤ lo) (h : lo ≤ s) (hmax : s ≤ 268435455) :
    ∃ n, inRange28 lo s = some n ∧ (n.toNat : Int) = s := by
  refine ⟨BitVec.ofInt 28 s, if_neg (by omega), ?_⟩
  rw [BitVec.toNat_ofInt]
  omega

theorem effectiveAddress_eq {base : Quad} (hb : Spec.Digits base) (off : BitVec 32) :
    effectiveAddress base off = (inRange28 0 (Spec.weight base + off.toInt)).map encodeScalar := by
  rw [effectiveAddress, decodeScalar_toNat hb]

theorem span_eq {first last : Quad} (hf : Spec.Digits first) (hl : Spec.Digits last) :
    span first last = inRange28 1 (Spec.weight last - Spec.weight first + 1) := by
  rw [span, decodeScalar_toNat hf, decodeScalar_toNat hl]

/-- Settles O6: the sum is narrowed to 28 bits or out of range, and the encoder keeps its weight. -/
theorem effectiveAddressIsExactSum : Obligations.EffectiveAddressIsExactSum := by
  refine ⟨fun base off hb => ⟨fun hout => ?_, fun ⟨hmin, hmax⟩ => ?_⟩, by decide, by decide⟩
  · have hnone : effectiveAddress base off = none := by
      rw [effectiveAddress_eq hb, inRange28_none hout, Option.map_none]
    exact ⟨hnone, fun s hidle => exec_queryByte_refused hidle ((byteAddress_of_digits hb off).trans hnone)⟩
  · obtain ⟨n, hn, hsum⟩ := inRange28_some (Int.le_refl 0) hmin hmax
    refine ⟨encodeScalar n, ?_, encodeScalar_digits n, ?_⟩
    · rw [effectiveAddress_eq hb, hn, Option.map_some]
    · rw [weight_encodeScalar, hsum]

theorem span_some {first last : Quad} (hf : Spec.Digits first) (hl : Spec.Digits last)
    (hle : Spec.weight first ≤ Spec.weight last) (hmax : Spec.weight last - Spec.weight first + 1 ≤ 268435455) :
    ∃ n, span first last = some n ∧ n.toNat = Spec.weight last - Spec.weight first + 1 := by
  obtain ⟨n, hn, hspan⟩ := inRange28_some (lo := 1) (s := Spec.weight last - Spec.weight first + 1) (by decide)
    (by omega) (by omega)
  exact ⟨n, (span_eq hf hl).trans hn, by omega⟩

/-- Settles O8: the exact difference is narrowed to 28 bits (`span_some`), or out of range on either side. -/
theorem spanCountsBothEnds : Obligations.SpanCountsBothEnds := by
  refine ⟨fun first last hf hl => ⟨fun hout => ?_, span_some hf hl⟩, fun q hq => ?_, by decide⟩
  · have hnone : span first last = none := by
      rw [span_eq hf hl]
      exact inRange28_none (by omega)
    exact ⟨hnone, fun s hidle => exec_queryRange_refused hidle ((rangeSpan_of_digits hf hl).trans hnone)⟩
  · obtain ⟨n, hn, hone⟩ := span_some hq hq (Nat.le_refl _) (by omega)
    rw [Nat.sub_self] at hone
    rw [hn, BitVec.eq_of_toNat_eq (x := n) (y := 1) hone]

end Sys2Proof.Machine
end

section
/-! PROOFS. The target count (R96) and the assembly of a result (R98). -/

namespace Sys2Proof.Machine

/-- The quotient fits the 21 bits of `TGT` (R13). -/
theorem targetChunks_toNat (n : BitVec 28) : (targetChunks n).toNat = n.toNat / 241 + 1 := by
  have hn : n.toNat < 268435456 := n.isLt
  have hfits : n.toNat / 241 + 1 < 2 ^ 21 := by omega
  exact Nat.mod_eq_of_lt hfits

/-- Settles O7: the value is `targetChunks_toNat`; the rest is division by 241. -/
theorem targetChunksCountsOneMoreThanWholeChunks : Obligations.TargetChunksCountsOneMoreThanWholeChunks := by
  refine ⟨fun n => ?_, by decide⟩
  have hn : n.toNat < 268435456 := n.isLt
  rw [targetChunks_toNat]
  refine ⟨rfl, ?_, ?_, ?_, ?_⟩ <;> omega

theorem concatData_eq_flatten (buf : List Entry) : concatData buf = (buf.map Entry.data).flatten := List.flatMap_def ..

theorem concatData_append_singleton (buf : List Entry) (e : Entry) :
    concatData (buf ++ [e]) = concatData buf ++ e.data := by simp [concatData]

theorem pairData_append_singleton (buf : List Entry) (e : Entry) :
    pairData (buf ++ [e]) = pairData buf ++ [(e.addr, e.data)] := by simp [pairData]

/-- Settles O9: `concatData` is a flattened map of the data and `pairData` a map, so an entry appended is appended to
both. -/
theorem resultAssemblyKeepsArrivalOrder : Obligations.ResultAssemblyKeepsArrivalOrder := by
  refine ⟨fun buf => ⟨concatData_eq_flatten buf, fun i => List.getElem?_map, fun e =>
    ⟨concatData_append_singleton buf e, pairData_append_singleton buf e⟩⟩, fun b c h => ?_⟩
  rw [concatData_eq_flatten, concatData_eq_flatten, h]

end Sys2Proof.Machine
end

section
/-! PROOFS. The five host commands, in `IDLE` and outside it (R110, R112 to R116). -/

namespace Sys2Proof.Machine

/-! ### A command outside `IDLE` (R110) -/

/-- Settles O20: each command is its `whenIdle`. -/
theorem commandsOutsideIdleHaveNoEffect : Obligations.CommandsOutsideIdleHaveNoEffect := by
  intro i s hi hw
  cases i with
  | sendStore | queryBytes | queryByte | queryRange | queryBulk =>
    exact congrArg Host.Outcome.next (whenIdle_waiting hw)
  | _ => cases hi

/-! ### Bytes on the command port of an idle block -/

theorem step_idle_command {s : State} {i : Instr} {rest : List PortEvent} (hidle : s.fsm = .idle)
    (hi : i.isCommand = true) (hin : s.inbox = .command (encode s.cfg i) :: rest) :
    step s = exec i { s with inbox := rest } :=
  step_of_decode_ok (event := .command _) (by rw [hidle, hin, takeEvent_idle]) (decodeCommand_encode s.cfg hi)

theorem step_idle_illegalEncoding {s : State} {bytes : List Byte} {rest : List PortEvent} (hidle : s.fsm = .idle)
    (hin : s.inbox = .command bytes :: rest) (h : IllegalEncoding bytes) :
    step s = .next (Spec.refused { s with inbox := rest }) := by
  obtain ⟨err, herr⟩ := decodeCommand_error_iff.2 h
  rw [step_of_decode_error (event := .command _) (by rw [hidle, hin, takeEvent_idle]) herr, refuse_eq_refused]

/-! ### `SEND_STORE` (R112) -/

theorem exec_sendStore_idle {addr : Quad} {data : List Byte} {s : State} (hidle : s.fsm = .idle) :
    exec (.sendStore addr data) s = .next
      (if storeDataFits s.cfg data then
        { sendFrame s.cfg.pfxStore (quadBytes addr ++ data) s with status := { s.status with arg := false } }
      else refuse s) :=
  congrArg Host.Outcome.next (whenIdle_idle hidle)

/-- Settles O14: data that fits or not, and a command too short to have an address. -/
theorem sendStoreSendsOneFrame : Obligations.SendStoreSendsOneFrame := by
  refine ⟨fun addr data s => ⟨fun hidle hfits => ?_, fun hidle hlong => ?_⟩, fun operands rest s hidle hin hshort => ?_⟩
  · rw [exec_sendStore_idle hidle, if_pos (storeDataFits_iff.2 hfits)]
    rfl
  · rw [exec_sendStore_idle hidle, if_neg (mt storeDataFits_iff.1 (Nat.not_le_of_lt hlong)), refuse_eq_refused]
  · have hillegal : IllegalEncoding (0x01 :: operands) :=
      .inr (.inr (.inl ⟨rfl, Nat.succ_lt_succ hshort⟩))
    exact step_idle_illegalEncoding hidle hin hillegal

/-! ### The counted queries (R113 to R115) -/

theorem openCounted_eq_counted (kind : QueryKind) (n : BitVec 28) (payload : List Byte) (s : State) :
    openCounted kind (targetChunks n) payload s = Spec.counted kind (n.toNat / 241 + 1) payload s := rfl

theorem lenLegal_iff {len : BitVec 32} : lenLegal len = true ↔ len.toNat < 2 ^ 28 := decide_eq_true_iff

theorem exec_queryBytes_idle {addr : Quad} {len : BitVec 32} {s : State} (hidle : s.fsm = .idle) :
    exec (.queryBytes addr len) s = .next
      (if lenLegal len then
        openCounted .queryBytes (targetChunks (len.setWidth 28))
          (quadBytes addr ++ quadBytes (encodeScalar (len.setWidth 28))) s
      else refuse s) :=
  congrArg Host.Outcome.next (whenIdle_idle hidle)

theorem exec_queryBytes_accepted {addr : Quad} {len : BitVec 32} {s : State} (hidle : s.fsm = .idle)
    (hlen : len.toNat < 2 ^ 28) :
    exec (.queryBytes addr len) s = .next
      (Spec.counted .queryBytes (len.toNat / 241 + 1)
        (quadBytes addr ++ quadBytes (encodeScalar (BitVec.ofNat 28 len.toNat))) s) := by
  have hwidth : (len.setWidth 28).toNat = len.toNat := (BitVec.toNat_setWidth ..).trans (Nat.mod_eq_of_lt hlen)
  rw [exec_queryBytes_idle hidle, if_pos (lenLegal_iff.2 hlen), openCounted_eq_counted, hwidth, BitVec.ofNat_toNat]

/-- Settles O15: a length that 28 bits hold is its own low 28 bits. -/
theorem queryBytesOpensACountedSession : Obligations.QueryBytesOpensACountedSession := by
  refine fun addr len s => ⟨exec_queryBytes_accepted, fun hidle hlong => ?_⟩
  rw [exec_queryBytes_idle hidle, if_neg (mt lenLegal_iff.1 (Nat.not_lt_of_le hlong)), refuse_eq_refused]

/-- Settles O16: the effective address is read, and the target for one byte is one chunk. -/
theorem queryByteReadsTheEffectiveAddress : Obligations.QueryByteReadsTheEffectiveAddress := by
  refine fun base off s => ⟨fun e hidle hdigits he => ?_, fun hidle hdigits => ?_, fun hidle hdigits hnone => ?_⟩
  · rw [exec_queryByte, execQueryByte, whenIdle_idle hidle, byteAddress_of_digits hdigits, he]
    rfl
  · exact exec_queryByte_refused hidle (byteAddress_of_not_digits hdigits off)
  · exact exec_queryByte_refused hidle ((byteAddress_of_digits hdigits off).trans hnone)

theorem exec_queryRange_accepted {first last : Quad} {n : BitVec 28} {s : State} (hidle : s.fsm = .idle)
    (hf : Spec.Digits first) (hl : Spec.Digits last) (hn : span first last = some n) :
    exec (.queryRange first last) s = .next
      (Spec.counted .queryRange (n.toNat / 241 + 1) (quadBytes first ++ quadBytes (encodeScalar n)) s) := by
  rw [exec_queryRange, execQueryRange, whenIdle_idle hidle, rangeSpan_of_digits hf hl, hn]
  rfl

/-- Settles O17: with digits the range has the span of its ends, and with no span, or no digits, it is refused. -/
theorem queryRangeReadsTheSpan : Obligations.QueryRangeReadsTheSpan := by
  refine fun first last s => ⟨fun n => exec_queryRange_accepted, fun hidle hdigits => ?_, fun hidle hf hl hnone => ?_⟩
  · exact exec_queryRange_refused hidle (rangeSpan_of_not_digits hdigits)
  · exact exec_queryRange_refused hidle ((rangeSpan_of_digits hf hl).trans hnone)

/-! ### `QUERY_BULK` (R116) -/

theorem exec_queryBulk_idle {addr size : Quad} {delay : BitVec 16} {s : State} (hidle : s.fsm = .idle) :
    exec (.queryBulk addr size delay) s = .next
      (if delay = 0 then
        { endSessionOk (openSession .queryBulk none (quadBytes addr ++ quadBytes size) s) with tmr := 0 }
      else
        { openSession .queryBulk none (quadBytes addr ++ quadBytes size) s with tmr := delay, fsm := .waitDelay }) :=
  congrArg Host.Outcome.next (whenIdle_idle hidle)

/-- Settles O18: a delay, no delay, and a command of another length. -/
theorem queryBulkWaitsItsDelay : Obligations.QueryBulkWaitsItsDelay := by
  refine ⟨fun addr size delay s => ⟨fun hidle hdelay => ?_, fun hidle hdelay => ?_⟩,
    fun operands rest s hidle hin hlen => ?_⟩
  · rw [exec_queryBulk_idle hidle, if_neg hdelay]
    rfl
  · rw [exec_queryBulk_idle hidle, if_pos hdelay, List.append_cons s.out]
    rfl
  · have hillegal : IllegalEncoding (0x05 :: operands) :=
      .inr (.inr (.inr (.inr ⟨rfl, by simpa using hlen⟩)))
    exact step_idle_illegalEncoding hidle hin hillegal

end Sys2Proof.Machine
end

section
/-! PROOFS. The command port: commands held in a wait, legal and illegal commands in `IDLE` (R69, R110, R118). -/

namespace Sys2Proof.Machine

/-! ### What a step leaves at the ports (R110) -/

theorem Effect.inbox {i : Instr} {s t : State} (h : Effect s i t) : t.inbox = s.inbox := by
  have hingest (k : MsgKind) (f : List Byte) : (ingest k f s).inbox = s.inbox :=
    ingest_preserves (P := fun u => u.inbox = s.inbox) (fun _ _ h => h) (fun _ _ _ _ h => h) (fun _ h => h) k f rfl
  cases h with
  | message | chunk => exact hingest _ _
  | _ => rfl

theorem isCommandEvent_iff {e : PortEvent} : isCommandEvent e = true ↔ ∃ b, e = .command b := by
  cases e <;> simp [isCommandEvent]

/-- A step takes one event from the ports, or none. -/
theorem step_inbox {s t : State} (h : step s = .next t) :
    (takeEvent s.fsm s.inbox = none ∧ t.inbox = s.inbox) ∨ ∃ e, takeEvent s.fsm s.inbox = some (e, t.inbox) := by
  obtain ⟨htake, hs⟩ | ⟨e, rest, i, htake, -, hs⟩ | ⟨e, rest, _, htake, -, hs⟩ := step_cases s <;> rw [hs] at h
  · cases h
    exact .inl ⟨htake, rfl⟩
  · exact .inr ⟨e, (exec_effect h).inbox ▸ htake⟩
  · cases h
    exact .inr ⟨e, htake⟩

/-- A step of a waiting state takes nothing, or one event that is no command from behind commands that stay. -/
theorem waiting_step_inbox {s t : State} (hw : s.fsm ≠ .idle) (h : step s = .next t) :
    t.inbox = s.inbox ∨ ∃ held e after, s.inbox = held ++ e :: after ∧ t.inbox = held ++ after ∧
      isCommandEvent e = false := by
  obtain ⟨-, hin⟩ | ⟨e, htake⟩ := step_inbox h
  · exact .inl hin
  · obtain ⟨held, after, hs, ht, -, -, he⟩ := takeEvent_some htake
    exact .inr ⟨held, e, after, hs, ht, he hw⟩

theorem takeEvent_of_commands {fsm : Fsm} (hw : fsm ≠ .idle) {l : List PortEvent}
    (hl : ∀ e ∈ l, isCommandEvent e = true) : takeEvent fsm l = none := by
  cases ht : takeEvent fsm l with
  | none => rfl
  | some p =>
    obtain ⟨held, after, rfl, -, -, -, he⟩ := takeEvent_some ht
    exact absurd (hl p.1 (by simp)) (by simp [he hw])

/-- Settles O39: what `takeEvent` takes, and that a step of a waiting state removes no command. -/
theorem commandsAreHeldWhileWaiting : Obligations.CommandsAreHeldWhileWaiting := by
  refine ⟨takeEvent_idle, fun fsm held rest e hw hheld he => ?_, fun s hw hall => ?_, fun s t hw h => ?_⟩
  · have hevent : isCommandEvent e = false := Bool.eq_false_iff.2 (mt isCommandEvent_iff.1 (not_exists.2 he))
    exact takeEvent_held hw (fun c hc => isCommandEvent_iff.2 (hheld c hc)) hevent rest
  · exact step_of_takeEvent_none (takeEvent_of_commands hw fun e he => isCommandEvent_iff.2 (hall e he))
  · obtain hin | ⟨held, e, after, hs, ht, he⟩ := waiting_step_inbox hw h
    · rw [hin]
    · rw [hs, ht, List.filter_append, List.filter_append, List.filter_cons_of_neg (by simp [he])]

/-! ### Legal commands (R69, R118) -/

theorem inRange28_isSome_iff {lo s : Int} : (inRange28 lo s).isSome = true ↔ lo ≤ s ∧ s ≤ 268435455 := by
  unfold inRange28
  split
  · next hout => simp; omega
  · next hin => simp; omega

theorem byteAddress_isSome_iff {base : Quad} {off : BitVec 32} :
    (byteAddress base off).isSome = true ↔
      Spec.Digits base ∧ 0 ≤ (Spec.weight base : Int) + off.toInt ∧
        (Spec.weight base : Int) + off.toInt ≤ 268435455 := by
  by_cases hb : Spec.Digits base
  · rw [byteAddress_of_digits hb, effectiveAddress_eq hb, Option.isSome_map, inRange28_isSome_iff]
    exact (and_iff_right hb).symm
  · simp [byteAddress_of_not_digits hb, hb]

theorem rangeSpan_isSome_iff {first last : Quad} :
    (rangeSpan first last).isSome = true ↔
      Spec.Digits first ∧ Spec.Digits last ∧ 1 ≤ (Spec.weight last : Int) - Spec.weight first + 1 ∧
        (Spec.weight last : Int) - Spec.weight first + 1 ≤ 268435455 := by
  rw [← and_assoc]
  by_cases hd : Spec.Digits first ∧ Spec.Digits last
  · rw [rangeSpan_of_digits hd.1 hd.2, span_eq hd.1 hd.2, inRange28_isSome_iff]
    exact (and_iff_right hd).symm
  · simp [rangeSpan_of_not_digits hd, hd]

/-- The first field of a command stands at byte 1, and a second one at byte 5 (R68). -/
theorem fieldAt_one (code : Byte) (q : Quad) (l : List Byte) : Spec.fieldAt (code :: (quadBytes q ++ l)) 1 = q := rfl

theorem fieldAt_five (code : Byte) (p q : Quad) : Spec.fieldAt (code :: (quadBytes p ++ quadBytes q)) 5 = q := rfl

/-- The table of legal commands is the operand checks of R69 on the commands the decoder knows. -/
theorem legalCommand_encode_iff (c : Config) {i : Instr} (hi : i.isCommand = true) :
    Spec.LegalCommand c (encode c i) ↔ i.wellFormed c = true := by
  cases i with
  | sendStore addr data =>
    have hrow : Spec.LegalCommand c (encode c (.sendStore addr data)) ↔ data.length ≤ c.txDataMax := by
      simp [Spec.LegalCommand, encode]
      omega
    exact hrow.trans storeDataFits_iff.symm
  | queryBytes addr len =>
    have hrow : Spec.LegalCommand c (encode c (.queryBytes addr len)) ↔ len.toNat ≤ 268435455 := by
      simp [Spec.LegalCommand, encode, fieldAt_five]
    exact hrow.trans (Nat.lt_succ_iff.symm.trans lenLegal_iff.symm)
  | queryByte base off => 
    refine Iff.trans ?_ byteAddress_isSome_iff.symm
    simp [Spec.LegalCommand, encode, fieldAt_one, fieldAt_five]
  | queryRange first last =>
    refine Iff.trans ?_ rangeSpan_isSome_iff.symm
    simp [Spec.LegalCommand, encode, fieldAt_one, fieldAt_five]
  | queryBulk addr size delay => simp [Spec.LegalCommand, encode, Instr.wellFormed]
  | _ => cases hi

theorem legalCommand_not_illegal {c : Config} {bytes : List Byte} (h : Spec.LegalCommand c bytes) :
    ¬ IllegalEncoding bytes := by
  obtain _ | ⟨code, operands⟩ := bytes
  · simp [Spec.LegalCommand] at h
  rcases h with ⟨hcode, hlen, -⟩ | ⟨hcode, hlen, -⟩ | ⟨hcode, hlen, -⟩ | ⟨hcode, hlen, -⟩ | ⟨hcode, hlen⟩ <;>
  · cases hcode
    simpa [IllegalEncoding] using hlen

/-- Of the cases of `Effect` an ill-formed command in `IDLE` has the refusal alone (R118). -/
theorem exec_command_illFormed {i : Instr} {s : State} (hi : i.isCommand = true) (hidle : s.fsm = .idle)
    (hwf : i.wellFormed s.cfg = false) : exec i s = .next (refuse s) := by
  obtain ⟨t, ht⟩ := exec_goes i s
  rw [ht]
  cases exec_effect ht with
  | refused => rfl
  | held _ hw => exact absurd hidle hw
  | stored _ _ _ h | counted _ _ _ _ _ _ _ h => simp [hwf] at h
  | bulkAtOnce | bulkWaits => cases hwf
  | message | chunk | tickIdle | tickCounts | tickTimesOut | tickEndsDelay | reset => cases hi
  | frameSent hout => simp [isCommand_of_outbound hout] at hi

/-- From `s` to `t` a command was accepted: `ARG` is clear, the ports are as they were, and a frame left first. -/
def Accepted (s t : State) : Prop := t.status.arg = false ∧ t.inbox = s.inbox ∧ ∃ f l, t.out = s.out ++ .tx f :: l

/-- An accepted command clears `ARG` and sends a frame first (R112 to R116). -/
theorem Effect.accepted {i : Instr} {s t : State} (h : Effect s i t) (hi : i.isCommand = true) (hidle : s.fsm = .idle)
    (hwf : i.wellFormed s.cfg = true) : Accepted s t := by
  cases h with
  | held _ hw => exact absurd hidle hw
  | refused _ _ h => simp [hwf] at h
  | stored | counted | bulkWaits => exact ⟨rfl, rfl, _, [], rfl⟩
  | bulkAtOnce => exact ⟨rfl, rfl, _, _, List.append_assoc ..⟩
  | message | chunk | tickIdle | tickCounts | tickTimesOut | tickEndsDelay | reset => cases hi
  | frameSent hout => simp [isCommand_of_outbound hout] at hi

/-- Settles O19: bytes that are no command are illegal, and a command is legal exactly when it is well-formed. -/
theorem illegalCommandsAreRefused : Obligations.IllegalCommandsAreRefused := by
  refine fun s bytes rest hin => ⟨fun hidle hillegal => ?_, fun hidle hlegal => ?_, fun hw => ?_⟩
  · by_cases hbytes : IllegalEncoding bytes
    · exact step_idle_illegalEncoding hidle hin hbytes
    obtain ⟨i, hdecode⟩ := exists_command_of_not_illegal hbytes
    obtain ⟨hi, rfl⟩ := encode_of_decodeCommand s.cfg hdecode
    have hwf : i.wellFormed s.cfg = false := Bool.eq_false_iff.2 (mt (legalCommand_encode_iff s.cfg hi).2 hillegal)
    rw [step_idle_command hidle hi hin, ← refuse_eq_refused]
    exact exec_command_illFormed hi hidle hwf
  · obtain ⟨i, hdecode⟩ := exists_command_of_not_illegal (legalCommand_not_illegal hlegal)
    obtain ⟨hi, rfl⟩ := encode_of_decodeCommand s.cfg hdecode
    obtain ⟨t, ht⟩ := exec_goes i { s with inbox := rest }
    exact ⟨t, (step_idle_command hidle hi hin).trans ht,
      (exec_effect ht).accepted hi hidle ((legalCommand_encode_iff s.cfg hi).1 hlegal)⟩
  · obtain ⟨t, ht⟩ := everyStepGoesOn s
    refine ⟨t, ht, ?_⟩
    obtain hsame | ⟨held, e, after, hs, hrest, he⟩ := waiting_step_inbox hw ht
    · rw [hsame, hin, List.head?_cons]
    · rw [hs] at hin
      cases held with
      | nil => cases hin; cases he
      | cons c held => cases hin; rw [hrest]; rfl

end Sys2Proof.Machine
end

section
/-! PROOFS. How a wait ends: with one `RESULT`, by the event that ends it (R52, R117, R201). -/

namespace Sys2Proof.Machine

/-- What raising an error and appending a chunk keep holds after an inbound message, or held just before the message
ended the session (R147). -/
theorem ingest_continues_or_ends {P : State → Prop} (hraise : ∀ e t, P t → P (raise e t))
    (happend : ∀ e t, P t → P (appendOnly e t)) (k : MsgKind) (f : List Byte) {s : State} (hs : P s) :
    P (ingest k f s) ∨ ∃ u, P u ∧ ingest k f s = endSessionOk u := by
  have hchecked : ∀ e, P (checked e s) := fun e => by
    unfold checked
    split
    · exact hs
    · exact hraise _ _ hs
  rcases ingest_cases k f s with ⟨-, hi⟩ | ⟨-, -, hi⟩ | ⟨-, -, hi⟩ <;> rw [hi]
  · exact .inl (hraise _ _ hs)
  · exact .inl (hraise _ _ hs)
  rcases ingestFields_cases (frameFields f) (s.cfg.bufPayloadMax < (frameFields f).data.length) s with
    ⟨-, -, hf⟩ | ⟨-, -, hf⟩ | ⟨-, -, -, hf⟩ <;> rw [hf]
  · exact .inl (hraise _ _ hs)
  · exact .inl (hraise _ _ (hchecked _))
  have happended := happend (frameFields f) _ (hchecked (frameFields f))
  by_cases hcompletes : CompletesWith (checked (frameFields f) s)
  · exact .inr ⟨_, happended, appendAndTest_completes hcompletes⟩
  · rw [appendAndTest_continues hcompletes]
    exact .inl happended

/-- The outputs are those before and then some, `n` of them a `RESULT`. -/
def AddsResults (n : Nat) (s t : State) : Prop :=
  ∃ added, t.out = s.out ++ added ∧ (added.filter Spec.isResult).length = n

theorem AddsResults.refl (s : State) : AddsResults 0 s s := ⟨[], by simp, rfl⟩

theorem AddsResults.emit {n : Nat} {s t : State} (h : AddsResults n s t) (o : Output) :
    AddsResults (n + [o].countP Spec.isResult) s (emit o t) := by
  obtain ⟨added, hout, hcount⟩ := h
  exact ⟨added ++ [o], by simp [hout], by simp [hcount, List.countP_eq_length_filter]⟩

theorem AddsResults.raise {n : Nat} {s t : State} (h : AddsResults n s t) (e : ErrorKind) :
    AddsResults n s (raise e t) :=
  AddsResults.emit (t := { t with status := setErrorFlag e t.status }) h (.report e)

theorem AddsResults.endSessionOk {n : Nat} {s t : State} (h : AddsResults n s t) :
    AddsResults (n + 1) s (endSessionOk t) :=
  h.emit (.result .ok (resultValue t))

theorem AddsResults.endSessionTimeout {n : Nat} {s t : State} (h : AddsResults n s t) :
    AddsResults (n + 1) s (endSessionTimeout t) :=
  (h.raise .timeout).emit (.result .timeout (resultValue (Machine.raise .timeout t)))

/-- The wait goes on with no `RESULT`, or it ends with one. -/
def WaitsOrEnds (s t : State) : Prop :=
  (t.fsm = s.fsm ∧ AddsResults 0 s t) ∨ (t.fsm = .idle ∧ AddsResults 1 s t)

theorem ingest_waitsOrEnds (k : MsgKind) (f : List Byte) (s : State) : WaitsOrEnds s (ingest k f s) := by
  obtain h | ⟨u, ⟨-, hu⟩, h⟩ :=
    ingest_continues_or_ends (P := fun u => u.fsm = s.fsm ∧ AddsResults 0 s u)
      (fun e _ h => ⟨h.1, h.2.raise e⟩) (fun _ _ h => h) k f ⟨rfl, .refl s⟩
  · exact .inl h
  · exact .inr (h ▸ ⟨rfl, hu.endSessionOk⟩)

/-- `RESET` apart, an operation from a waiting state leaves the wait as it is or ends it with its `RESULT`. -/
theorem Effect.waitsOrEnds {i : Instr} {s t : State} (h : Effect s i t) (hw : s.fsm ≠ .idle) (hi : i ≠ .reset) :
    WaitsOrEnds s t := by
  cases h with
  | held | tickCounts => exact .inl ⟨rfl, .refl s⟩
  | message | chunk => exact ingest_waitsOrEnds _ _ s
  | tickTimesOut => exact .inr ⟨rfl, (AddsResults.refl s).endSessionTimeout⟩
  | tickEndsDelay => exact .inr ⟨rfl, (AddsResults.refl s).endSessionOk⟩
  | reset => exact absurd rfl hi
  | refused _ hidle | stored _ _ hidle | counted _ _ _ _ _ _ hidle | bulkAtOnce _ _ hidle | bulkWaits _ _ hidle
  | tickIdle hidle | frameSent _ hidle => exact absurd hidle hw

/-- Settles O44: `RESET` adds no output, and any other operation does what `Effect.waitsOrEnds` says. -/
theorem oneResultExactlyWhenTheWaitEnds : Obligations.OneResultExactlyWhenTheWaitEnds := by
  intro i s t hw h
  by_cases hreset : i = .reset
  · subst hreset
    cases h
    simp
  obtain ⟨hfsm, added, hout, hcount⟩ | ⟨hfsm, added, hout, hcount⟩ := (exec_effect h).waitsOrEnds hw hreset
  · rw [hout, List.drop_left, hcount, if_neg fun hends => hw (hfsm ▸ hends.1)]
  · rw [hout, List.drop_left, hcount, if_pos ⟨hfsm, hreset⟩]

end Sys2Proof.Machine
end

section
/-! PROOFS. Runs of a session: what a waiting block takes in without ending its wait (R140, R146 to R149). -/

namespace Sys2Proof.Machine

/-! ### Runs -/

theorem run_cons {s u : State} {k : Nat} (h : step s = .next u) : core.run (k + 1) s = core.run k u := by
  have hcore : core.step s = .next u := h
  simp only [Host.Core.run, hcore]

theorem run_concat {s u t : State} {k : Nat} (h : core.run k s = .next u) (hu : step u = .next t) :
    core.run (k + 1) s = .next t := by
  induction k generalizing s with
  | zero =>
    cases h
    exact run_cons hu
  | succ k ih =>
    obtain ⟨v, hv⟩ := everyStepGoesOn s
    exact (run_cons hv).trans (ih ((run_cons hv).symm.trans h))

/-- An event that is no command is taken from the head of the ports in every state. -/
theorem step_event {s : State} {e : PortEvent} {i : Instr} {rest : List PortEvent} (he : isCommandEvent e = false)
    (hd : decodeEvent e = .ok i) (hin : s.inbox = e :: rest) : step s = exec i { s with inbox := rest } :=
  step_of_decode_ok (by simp [hin, takeEvent, he]) hd

/-! ### A frame that fits (R143 to R147) -/

/-- The buffer's entry for a frame (R63, R146). -/
def entryOf (f : List Byte) : Entry := ⟨Spec.chunkAddr f, Spec.chunkData f, verify f⟩

theorem frameFields_eq_entryOf {f : List Byte} (h : 12 ≤ f.length) : frameFields f = entryOf f := by
  have hdata : slice f 11 (f.length - 2) = Spec.chunkData f := by
    have hcount : f.length - 2 + 1 - 11 = (f.drop 11).length - 1 := by simp; omega
    rw [slice, hcount, Spec.chunkData, List.dropLast_eq_take]
  exact congrArg (Entry.mk (Spec.chunkAddr f) · (verify f)) hdata

theorem appendOnly_checked_entryOf (f : List Byte) (s : State) :
    appendOnly (entryOf f) (checked (entryOf f) s) = Spec.appended f s := by
  cases hv : verify f <;> simp [appendOnly, checked, entryOf, Spec.appended, hv, raise, emit, setErrorFlag, bufAppend]

theorem ingest_fits {f : List Byte} {s : State} (hok : verify f = true ∨ s.cfg.dropBadCsum = false)
    (hfits : Spec.Fits s.cfg f) (hroom : s.buf.length ≠ s.cfg.bufChunks) :
    ingest .sysex f s = appendAndTest (entryOf f) (checked (entryOf f) s) := by
  obtain ⟨hlong, hshort⟩ := hfits
  have hdata : ¬ s.cfg.bufPayloadMax < (entryOf f).data.length := by
    simp [entryOf, Spec.chunkData]
    omega
  rw [ingest, if_neg (Nat.not_lt.2 hlong), frameFields_eq_entryOf hlong, decide_eq_false hdata]
  rcases ingestFields_cases (entryOf f) false s with ⟨hbad, hdrop, -⟩ | ⟨-, hfull, -⟩ | ⟨-, -, -, happend⟩
  · have hv : verify f = false := hbad
    simp [hv, hdrop] at hok
  · simp [hroom] at hfull
  · exact happend

theorem completesWith_checked (e : Entry) (s : State) : CompletesWith (checked e s) ↔ CompletesWith s := by
  obtain ⟨-, hfsm, -, htgt, htgtEn, hcnt, -⟩ := checked_frame e s
  simp only [CompletesWith, hfsm, htgt, htgtEn, hcnt]

theorem ingest_fits_continues {f : List Byte} {s : State} (hok : verify f = true ∨ s.cfg.dropBadCsum = false)
    (hfits : Spec.Fits s.cfg f) (hroom : s.buf.length ≠ s.cfg.bufChunks) (h : ¬ CompletesWith s) :
    ingest .sysex f s = Spec.appended f s := by
  rw [ingest_fits hok hfits hroom, appendAndTest_continues (mt (completesWith_checked _ s).1 h),
    appendOnly_checked_entryOf]

theorem ingest_fits_completes {f : List Byte} {s : State} (hok : verify f = true ∨ s.cfg.dropBadCsum = false)
    (hfits : Spec.Fits s.cfg f) (hroom : s.buf.length ≠ s.cfg.bufChunks) (h : CompletesWith s) :
    ingest .sysex f s = endSessionOk (Spec.appended f s) := by
  rw [ingest_fits hok hfits hroom, appendAndTest_completes ((completesWith_checked _ s).2 h),
    appendOnly_checked_entryOf]

/-! ### Ticks (R148, R149) -/

theorem exec_tick_counts {s : State} (hw : s.fsm ≠ .idle) (ht : s.tmr - 1 ≠ 0) :
    exec .tick s = .next (countDown s) := by
  cases hf : s.fsm with
  | idle => exact absurd hf hw
  | waitCount | waitDelay => simp only [exec, execTick, hf, if_neg ht]

theorem exec_tick_endsDelay {s : State} (hw : s.fsm = .waitDelay) (ht : s.tmr - 1 = 0) :
    exec .tick s = .next (endSessionOk (countDown s)) := by
  simp only [exec, execTick, hw, if_pos ht]

/-! ### What a session takes in -/

/-- From `s` to `u` the session took in the events `es`: the frames are in the buffer and counted, the ticks are off the
timer, and the session is the same one, as far as it was. -/
structure Took (s : State) (es : List PortEvent) (u : State) : Prop where
  cfg : u.cfg = s.cfg
  fsm : u.fsm = s.fsm
  cmdr : u.cmdr = s.cmdr
  tgt : u.tgt = s.tgt
  tgtEn : u.tgtEn = s.tgtEn
  cnt : u.cnt = s.cnt + BitVec.ofNat 21 (es.filterMap Spec.sysexBytes).length
  tmr : u.tmr = s.tmr - BitVec.ofNat 16 (es.count .tick)
  buf : u.buf = s.buf ++ (es.filterMap Spec.sysexBytes).map entryOf
  done : u.status.done = s.status.done
  timeout : u.status.timeout = s.status.timeout

@[simp] theorem sysexBytes_sysex (f : List Byte) : Spec.sysexBytes (.message .sysex f) = some f := rfl
@[simp] theorem sysexBytes_other (f : List Byte) : Spec.sysexBytes (.message .other f) = none := rfl
@[simp] theorem sysexBytes_tick : Spec.sysexBytes .tick = none := rfl
@[simp] theorem sysexBytes_comp_message : Spec.sysexBytes ∘ PortEvent.message .sysex = some := rfl

theorem Took.nil (s : State) : Took s [] s := by constructor <;> simp

theorem Took.trans {s u v : State} {es es' : List PortEvent} (h : Took s es u) (h' : Took u es' v) :
    Took s (es ++ es') v where
  cfg := h'.cfg.trans h.cfg
  fsm := h'.fsm.trans h.fsm
  cmdr := h'.cmdr.trans h.cmdr
  tgt := h'.tgt.trans h.tgt
  tgtEn := h'.tgtEn.trans h.tgtEn
  cnt := by rw [h'.cnt, h.cnt, List.filterMap_append, List.length_append, BitVec.ofNat_add, BitVec.add_assoc]
  tmr := by rw [h'.tmr, h.tmr, List.count_append, BitVec.ofNat_add, sub_sub]
  buf := by rw [h'.buf, h.buf, List.filterMap_append, List.map_append, List.append_assoc]
  done := h'.done.trans h.done
  timeout := h'.timeout.trans h.timeout

theorem took_tick (s : State) (rest : List PortEvent) : Took s [.tick] (countDown { s with inbox := rest }) := by
  constructor <;> simp [List.filterMap_cons]

theorem took_other (f : List Byte) (s : State) (rest : List PortEvent) :
    Took s [.message .other f] (raise .framingKind { s with inbox := rest }) := by
  constructor <;> simp [List.filterMap_cons, setErrorFlag]

theorem took_frame (f : List Byte) (s : State) (rest : List PortEvent) :
    Took s [.message .sysex f] (Spec.appended f { s with inbox := rest }) := by
  constructor <;> simp [Spec.appended, entryOf]

/-- The events of an open session: ticks, messages of another kind, and frames that fit. -/
def SessionEvent (c : Config) (e : PortEvent) : Prop :=
  e = .tick ∨ (∃ f, e = .message .other f) ∨ ∃ f, e = .message .sysex f ∧ Spec.Fits c f

/-- The block waits, and the events `es` neither end its wait nor overflow its buffer. -/
structure StaysOpen (s : State) (es : List PortEvent) : Prop where
  waits : s.fsm ≠ .idle
  keeps : s.cfg.dropBadCsum = false
  events : ∀ e ∈ es, SessionEvent s.cfg e
  time : es.count .tick < s.tmr.toNat
  room : s.buf.length + (es.filterMap Spec.sysexBytes).length ≤ s.cfg.bufChunks
  short : s.fsm = .waitCount → s.cnt.toNat + (es.filterMap Spec.sysexBytes).length < s.tgt.toNat

/-- The timer does not run out while the session stays open. -/
theorem Took.tmr_toNat {s u : State} {es : List PortEvent} (h : Took s es u) (htime : es.count .tick ≤ s.tmr.toNat) :
    u.tmr.toNat = s.tmr.toNat - es.count .tick := by
  rw [h.tmr]
  bv_omega

/-- The counter does not wrap below a target. -/
theorem Took.cnt_toNat {s u : State} {es : List PortEvent} (h : Took s es u)
    (hfits : s.cnt.toNat + (es.filterMap Spec.sysexBytes).length < 2 ^ 21) :
    u.cnt.toNat = s.cnt.toNat + (es.filterMap Spec.sysexBytes).length := by
  rw [h.cnt]
  bv_omega

theorem StaysOpen.later {s u : State} {es es' : List PortEvent} (h : StaysOpen s (es ++ es')) (hu : Took s es u) :
    StaysOpen u es' := by
  obtain ⟨hwaits, hkeeps, hevents, htime, hroom, hshort⟩ := h
  rw [List.count_append] at htime
  simp only [List.filterMap_append, List.length_append] at hroom hshort
  refine ⟨hu.fsm ▸ hwaits, hu.cfg ▸ hkeeps, fun e he => ?_, ?_, ?_, fun hcount => ?_⟩
  · exact hu.cfg ▸ hevents e (List.mem_append_right es he)
  · rw [hu.tmr_toNat (by omega)]
    omega
  · rw [hu.buf, hu.cfg, List.length_append, List.length_map]
    omega
  · have hbelow := hshort (hu.fsm ▸ hcount)
    rw [hu.tgt, hu.cnt_toNat (by have := s.tgt.isLt; omega)]
    omega

theorem StaysOpen.step_takes {s : State} {e : PortEvent} {es rest : List PortEvent} (h : StaysOpen s (e :: es))
    (hin : s.inbox = e :: rest) : ∃ u, step s = .next u ∧ u.inbox = rest ∧ Took s [e] u := by
  obtain ⟨hwaits, hkeeps, hevents, htime, hroom, hshort⟩ := h
  obtain rfl | ⟨f, rfl⟩ | ⟨f, rfl, hfits⟩ := hevents e List.mem_cons_self
  · have hleft : s.tmr - 1 ≠ 0 := by
      rw [List.count_cons_self] at htime
      bv_omega
    refine ⟨_, ?_, rfl, took_tick s rest⟩
    rw [step_event rfl rfl hin]
    exact exec_tick_counts hwaits hleft
  · exact ⟨_, (step_event rfl rfl hin).trans rfl, rfl, took_other f s rest⟩
  · rw [List.filterMap_cons_some (sysexBytes_sysex f), List.length_cons] at hroom hshort
    have hopen : ¬ CompletesWith s := by
      rintro ⟨hcount, -, hlast⟩
      have hbelow := hshort hcount
      bv_omega
    refine ⟨_, ?_, rfl, took_frame f s rest⟩
    rw [step_event rfl rfl hin]
    exact congrArg Host.Outcome.next
      (ingest_fits_continues (s := { s with inbox := rest }) (.inr hkeeps) hfits (by dsimp only; omega) hopen)

/-- A session that stays open takes in its events one step at a time. -/
theorem StaysOpen.run_takes {s : State} {es rest : List PortEvent} (h : StaysOpen s es) (hin : s.inbox = es ++ rest) :
    ∃ u : State, core.run es.length s = .next u ∧ u.inbox = rest ∧ Took s es u := by
  induction es generalizing s with
  | nil => exact ⟨s, rfl, hin, .nil s⟩
  | cons e es ih =>
    obtain ⟨v, hstep, hrest, hv⟩ := h.step_takes hin
    obtain ⟨u, hrun, hu, htook⟩ := ih (h.later (es := [e]) hv) hrest
    exact ⟨u, (run_cons hstep).trans hrun, hu, hv.trans htook⟩

end Sys2Proof.Machine
end

section
/-! PROOFS. The queries from end to end: from the command in `IDLE` to the result (R113, R115 to R117, R147, R149). -/

namespace Sys2Proof.Machine

/-! ### The result of what was taken in (R117) -/

theorem resultValue_queryBytes {s : State} (h : s.cmdr = .queryBytes) :
    resultValue s = .bytes (s.buf.map Entry.data).flatten := by
  rw [resultValue, h, ← concatData_eq_flatten]

theorem resultValue_pairs {s : State} (h : s.cmdr = .queryRange ∨ s.cmdr = .queryBulk) :
    resultValue s = .pairs (pairData s.buf) := by
  unfold resultValue
  rcases h with h | h <;> rw [h]

theorem data_entryOf (frames : List (List Byte)) : (frames.map entryOf).map Entry.data = frames.map Spec.chunkData :=
  List.map_map

theorem pairData_entryOf (frames : List (List Byte)) :
    pairData (frames.map entryOf) = frames.map fun f => (Spec.chunkAddr f, Spec.chunkData f) := List.map_map

theorem endSessionOk_getLast (s : State) : (endSessionOk s).out.getLast? = some (.result .ok (resultValue s)) := by
  simp

/-! ### A counted query whose target comes (R113 to R115, R147) -/

@[simp] theorem count_tick_map_message (frames : List (List Byte)) :
    (frames.map (PortEvent.message .sysex)).count .tick = 0 := by
  simp [List.count_eq_zero]

/-- A session whose target the last frame reaches takes in the frames before it, and the last one completes it. -/
theorem StaysOpen.run_completes {s : State} {init : List (List Byte)} {last : List Byte} {rest : List PortEvent}
    (h : StaysOpen s (init.map (.message .sysex))) (hcount : s.fsm = .waitCount) (htgtEn : s.tgtEn = true)
    (htgt : s.cnt.toNat + init.length + 1 = s.tgt.toNat) (hroom : s.buf.length + init.length < s.cfg.bufChunks)
    (hfits : Spec.Fits s.cfg last) (hin : s.inbox = (init ++ [last]).map (.message .sysex) ++ rest) :
    ∃ u : State, core.run (init.length + 1) s = .next (endSessionOk u) ∧ u.inbox = rest ∧
      Took s ((init ++ [last]).map (.message .sysex)) u := by
  obtain ⟨u, hrun, hu, htook⟩ := h.run_takes (rest := .message .sysex last :: rest) (by simpa using hin)
  rw [List.length_map] at hrun
  have hcnt : u.cnt.toNat = s.cnt.toNat + init.length := by
    have hlt := s.tgt.isLt
    simpa using htook.cnt_toNat (by simp; omega)
  have hcompletes : CompletesWith u := by
    refine ⟨htook.fsm.trans hcount, htook.tgtEn.trans htgtEn, ?_⟩
    have hu' := congrArg BitVec.toNat htook.tgt
    bv_omega
  have hspace : u.buf.length ≠ u.cfg.bufChunks := by
    rw [htook.buf, htook.cfg]
    simp
    omega
  have hstep : step u = .next (endSessionOk (Spec.appended last { u with inbox := rest })) := by
    rw [step_event rfl rfl hu]
    exact congrArg Host.Outcome.next (ingest_fits_completes (s := { u with inbox := rest })
      (.inr (htook.cfg ▸ h.keeps)) (htook.cfg ▸ hfits) hspace hcompletes)
  refine ⟨_, run_concat hrun hstep, rfl, ?_⟩
  rw [List.map_append]
  exact htook.trans (took_frame last u rest)

theorem counted_tgt_toNat {kind : QueryKind} {target : Nat} {payload : List Byte} {s : State} (h : target < 2 ^ 21) :
    (Spec.counted kind target payload s).tgt.toNat = target := Nat.mod_eq_of_lt h

/-- A fresh counted session stays open for fewer frames than its target. -/
theorem staysOpen_counted {kind : QueryKind} {target : Nat} {payload : List Byte} {s : State}
    {frames : List (List Byte)} (hdrop : s.cfg.dropBadCsum = false) (htarget : target < 2 ^ 21)
    (hshort : frames.length < target) (hroom : frames.length ≤ s.cfg.bufChunks)
    (hfits : ∀ f ∈ frames, Spec.Fits s.cfg f) :
    StaysOpen (Spec.counted kind target payload s) (frames.map (.message .sysex)) where
  waits := by simp [Spec.counted]
  keeps := hdrop
  events := by
    intro e he
    obtain ⟨f, hf, rfl⟩ := List.mem_map.1 he
    exact .inr (.inr ⟨f, rfl, hfits f hf⟩)
  time := by simp [Spec.counted]
  room := by simpa [Spec.counted] using hroom
  short := by
    rw [counted_tgt_toNat htarget]
    simpa [Spec.counted] using hshort

/-- A counted query gets as many frames as its target: it ends well, with those frames in its buffer. -/
theorem counted_run {kind : QueryKind} {n : Nat} {payload : List Byte} {s : State} {frames : List (List Byte)}
    {rest : List PortEvent} (hdrop : s.cfg.dropBadCsum = false) (hn : n < 2 ^ 28) (hlen : frames.length = n / 241 + 1)
    (hroom : frames.length ≤ s.cfg.bufChunks) (hfits : ∀ f ∈ frames, Spec.Fits s.cfg f)
    (hin : s.inbox = frames.map (.message .sysex) ++ rest) :
    ∃ u : State, core.run frames.length (Spec.counted kind (n / 241 + 1) payload s) = .next (endSessionOk u) ∧
      u.inbox = rest ∧ u.cmdr = kind ∧ u.cnt.toNat = n / 241 + 1 ∧ u.buf = frames.map entryOf ∧
      u.status.timeout = false := by
  have htarget : n / 241 + 1 < 2 ^ 21 := by omega
  obtain ⟨init, last, rfl⟩ := (List.eq_nil_or_concat' frames).resolve_left (by rintro rfl; simp at hlen)
  rw [List.length_append, List.length_singleton] at hlen hroom
  have hopen : StaysOpen (Spec.counted kind (n / 241 + 1) payload s) (init.map (.message .sysex)) :=
    staysOpen_counted hdrop htarget (by omega) (by omega) fun f hf => hfits f (List.mem_append_left _ hf)
  obtain ⟨u, hrun, hu, htook⟩ := hopen.run_completes rfl rfl
    (by rw [counted_tgt_toNat htarget, ← hlen]; simp [Spec.counted]) (by simp [Spec.counted]; omega)
    (hfits last (by simp)) hin
  rw [List.length_append, List.length_singleton]
  refine ⟨u, hrun, hu, htook.cmdr, ?_, ?_, htook.timeout⟩
  · simpa [Spec.counted, hlen] using htook.cnt_toNat (by simp [Spec.counted]; omega)
  · simpa [Spec.counted] using htook.buf

/-- Settles O52: the command opens a counted session (`exec_queryBytes_accepted`), and the frames complete it
(`counted_run`). -/
theorem queryBytesReturnsChunksInArrivalOrder : Obligations.QueryBytesReturnsChunksInArrivalOrder := by
  intro s addr len frames rest hidle hdrop hlt hlen hroom hfits hin
  obtain ⟨u, hrun, hrest, hcmdr, hcnt, hbuf, htimeout⟩ :=
    counted_run (s := { s with inbox := frames.map (.message .sysex) ++ rest }) (kind := .queryBytes)
      (payload := quadBytes addr ++ quadBytes (encodeScalar (BitVec.ofNat 28 len.toNat)))
      hdrop hlt hlen hroom hfits rfl
  have hstep := (step_idle_command hidle rfl hin).trans (exec_queryBytes_accepted hidle hlt)
  refine ⟨endSessionOk u, (run_cons hstep).trans hrun, rfl, hrest, rfl, htimeout, hcnt, ?_, ?_⟩
  · exact (congrArg pairData hbuf).trans (pairData_entryOf frames)
  · rw [endSessionOk_getLast, resultValue_queryBytes hcmdr, hbuf, data_entryOf]

/-- Settles O53: the target is that of the span (`exec_queryRange_accepted`), and the frames complete it
(`counted_run`). -/
theorem queryRangeReturnsPairsInArrivalOrder : Obligations.QueryRangeReturnsPairsInArrivalOrder := by
  intro s first last n frames rest hidle hdrop hf hl hspan hlen hroom hfits hin
  obtain ⟨u, hrun, hrest, hcmdr, -, hbuf, -⟩ :=
    counted_run (s := { s with inbox := frames.map (.message .sysex) ++ rest }) (kind := .queryRange)
      (payload := quadBytes first ++ quadBytes (encodeScalar n)) hdrop n.isLt hlen hroom hfits rfl
  have hstep := (step_idle_command hidle rfl hin).trans (exec_queryRange_accepted hidle hf hl hspan)
  refine ⟨endSessionOk u, (run_cons hstep).trans hrun, rfl, hrest, rfl, ?_⟩
  rw [endSessionOk_getLast, resultValue_pairs (.inl hcmdr), hbuf, pairData_entryOf]

/-! ### A bulk query (R116, R149) -/

/-- A delay session waits until its last tick, and ends with what it took in until then. -/
theorem StaysOpen.run_endsDelay {s : State} {es rest : List PortEvent} (h : StaysOpen s es)
    (hdelay : s.fsm = .waitDelay) (htmr : es.count .tick + 1 = s.tmr.toNat) (hin : s.inbox = es ++ .tick :: rest) :
    ∃ u v : State, core.run es.length s = .next u ∧ u.fsm = .waitDelay ∧
      core.run (es.length + 1) s = .next (endSessionOk v) ∧ v.inbox = rest ∧ v.tmr = 0 ∧ Took s (es ++ [.tick]) v := by
  obtain ⟨u, hrun, hu, htook⟩ := h.run_takes hin
  have hwaits : u.fsm = .waitDelay := htook.fsm.trans hdelay
  have hlast : u.tmr - 1 = 0 := by
    have hone := htook.tmr_toNat (by omega)
    bv_omega
  have hstep : step u = .next (endSessionOk (countDown { u with inbox := rest })) := by
    rw [step_event rfl rfl hu]
    exact exec_tick_endsDelay hwaits hlast
  exact ⟨u, _, hrun, hwaits, run_concat hrun hstep, rfl, hlast, htook.trans (took_tick u rest)⟩

/-- The session of a bulk query that waits (R116). -/
def bulkSession (addr size : Quad) (delay : BitVec 16) (s : State) : State :=
  { openSession .queryBulk none (quadBytes addr ++ quadBytes size) s with tmr := delay, fsm := .waitDelay }

theorem exec_queryBulk_waits {addr size : Quad} {delay : BitVec 16} {s : State} (hidle : s.fsm = .idle)
    (hdelay : delay ≠ 0) : exec (.queryBulk addr size delay) s = .next (bulkSession addr size delay s) := by
  rw [exec_queryBulk_idle hidle, if_neg hdelay]
  rfl

/-- A bulk session has no target: it stays open for fewer ticks than its delay. -/
theorem staysOpen_bulkSession {addr size : Quad} {delay : BitVec 16} {s : State} {es : List PortEvent}
    (hdrop : s.cfg.dropBadCsum = false) (hevents : ∀ e ∈ es, SessionEvent s.cfg e)
    (htime : es.count .tick < delay.toNat) (hroom : (es.filterMap Spec.sysexBytes).length ≤ s.cfg.bufChunks) :
    StaysOpen (bulkSession addr size delay s) es where
  waits := by simp [bulkSession]
  keeps := hdrop
  events := hevents
  time := htime
  room := by simpa [bulkSession] using hroom
  short := by simp [bulkSession]

/-- Settles O56: the delay leaves room for the ticks before the last, and the result is what was taken in by then. -/
theorem bulkQueryReturnsItsWindow : Obligations.BulkQueryReturnsItsWindow := by
  intro s addr size delay before rest hidle hdrop hdelay hevents hroom hin
  have hpos : delay ≠ 0 := by
    rintro rfl
    simp at hdelay
  have hstep := (step_idle_command hidle rfl hin).trans (exec_queryBulk_waits hidle hpos)
  have hopen : StaysOpen (bulkSession addr size delay { s with inbox := before ++ .tick :: rest }) before :=
    staysOpen_bulkSession hdrop hevents (by omega) hroom
  obtain ⟨u, v, hrun, hu, hend, hrest, hzero, htook⟩ := hopen.run_endsDelay rfl hdelay rfl
  have hbuf : v.buf = (before.filterMap Spec.sysexBytes).map entryOf := by
    simpa [bulkSession, List.filterMap_cons] using htook.buf
  refine ⟨⟨u, (run_cons hstep).trans hrun, hu⟩, endSessionOk v, (run_cons hstep).trans hend, rfl, hrest, rfl,
    htook.timeout, hzero, ?_⟩
  rw [endSessionOk_getLast, resultValue_pairs (.inr htook.cmdr), hbuf, pairData_entryOf]

end Sys2Proof.Machine
end

section
/-! PROOFS. What an inbound message does: it is reported and dropped, or appended and counted (R140 to R147). -/

namespace Sys2Proof.Machine

theorem exec_rxMsg (k : MsgKind) (f : List Byte) (s : State) : exec (.rxMsg k f) s = .next (ingest k f s) := rfl

/-- Settles O24: the kind is all that is looked at. -/
theorem foreignKindIsReportedAndDropped : Obligations.ForeignKindIsReportedAndDropped := fun _ _ => rfl

/-! ### Messages that are dropped (R142, R144, R145) -/

theorem ingest_runt {f : List Byte} {s : State} (h : f.length < 12) : ingest .sysex f s = raise .framingRunt s :=
  if_pos h

theorem ingest_frame {f : List Byte} {s : State} (h : 12 ≤ f.length) :
    ingest .sysex f s = ingestFields (entryOf f) (12 + s.cfg.bufPayloadMax < f.length) s := by
  have hlong : s.cfg.bufPayloadMax < (entryOf f).data.length ↔ 12 + s.cfg.bufPayloadMax < f.length := by
    simp [entryOf, Spec.chunkData]
    omega
  rw [ingest, if_neg (Nat.not_lt.2 h), frameFields_eq_entryOf h, decide_eq_decide.2 hlong]

theorem ingest_badChecksum_dropped {f : List Byte} {s : State} (h : 12 ≤ f.length) (hbad : verify f = false)
    (hdrop : s.cfg.dropBadCsum = true) : ingest .sysex f s = raise .checksum s := by
  rw [ingest_frame h]
  obtain ⟨-, -, hi⟩ | ⟨hok, -⟩ | ⟨hok, -⟩ := ingestFields_cases (entryOf f) (12 + s.cfg.bufPayloadMax < f.length) s
  · exact hi
  all_goals simp [entryOf, hbad, hdrop] at hok

theorem ingest_overflows {f : List Byte} {s : State} (h : 12 ≤ f.length)
    (hok : verify f = true ∨ s.cfg.dropBadCsum = false)
    (hno : s.buf.length = s.cfg.bufChunks ∨ 12 + s.cfg.bufPayloadMax < f.length) :
    ingest .sysex f s = raise .overflow (checked (entryOf f) s) := by
  rw [ingest_frame h]
  obtain ⟨hbad, hdrop, -⟩ | ⟨-, -, hi⟩ | ⟨-, hroom, hfits, -⟩ :=
    ingestFields_cases (entryOf f) (12 + s.cfg.bufPayloadMax < f.length) s
  · have hv : verify f = false := hbad
    simp [hv, hdrop] at hok
  · exact hi
  · exact absurd hno (not_or.2 ⟨hroom, of_decide_eq_false hfits⟩)

theorem raise_overflow_checked (f : List Byte) (s : State) :
    raise .overflow (checked (entryOf f) s) =
      { s with
        status := { s.status with ovf := true, cse := s.status.cse || !verify f }
        out := s.out ++ (if verify f = true then [] else [.report .checksum]) ++ [.report .overflow] } := by
  cases hv : verify f <;> simp [checked, entryOf, hv, raise, emit, setErrorFlag]

/-- Settles O28: the checksum's verdict first, then the overflow. -/
theorem overflowDropsTheChunk : Obligations.OverflowDropsTheChunk := by
  intro f s h hok hno
  rw [exec_rxMsg, ingest_overflows h hok hno, raise_overflow_checked]

/-! ### Chunks that are appended (R143, R146, R147) -/

theorem ingest_appends {f : List Byte} {s : State} (hok : verify f = true ∨ s.cfg.dropBadCsum = false)
    (hfits : Spec.Fits s.cfg f) (hroom : s.buf.length ≠ s.cfg.bufChunks) :
    (ingest .sysex f s).buf = s.buf ++ [entryOf f] ∧ (ingest .sysex f s).cnt = s.cnt + 1 := by
  rw [ingest_frame hfits.1]
  exact ingestFields_appends hok hroom (decide_eq_false (Nat.not_lt.2 hfits.2))

/-- Settles O25: a frame of 12 bytes fits and has no chunk data. -/
theorem runtIsReportedAndDropped : Obligations.RuntIsReportedAndDropped := by
  refine fun f s => ⟨fun hrunt => ?_, fun hlen hok hroom => ⟨_, exec_rxMsg .sysex f s, ?_⟩⟩
  · rw [exec_rxMsg, ingest_runt hrunt]
    rfl
  · have hempty : Spec.chunkData f = [] := by
      rw [Spec.chunkData, ← List.length_eq_zero_iff]
      simp [hlen]
    have hfits : Spec.Fits s.cfg f := ⟨hlen.ge, by omega⟩
    rw [← hempty]
    exact ingest_appends hok hfits hroom

/-- Settles O26: whether the chunk completes the session or not, its entry, its count and its verdict are those of
`Spec.appended`. -/
theorem chunkIsAppendedAndCounted : Obligations.ChunkIsAppendedAndCounted := by
  refine fun f s hlen => ⟨fun hok hfits hroom => ⟨_, exec_rxMsg .sysex f s, ?_⟩, fun hbad hdrop => ?_⟩
  · by_cases hc : CompletesWith s
    · rw [ingest_fits_completes hok hfits hroom hc]
      exact ⟨rfl, rfl, rfl, ⟨_, rfl⟩, fun hopen => absurd hc hopen⟩
    · rw [ingest_fits_continues hok hfits hroom hc]
      exact ⟨rfl, rfl, rfl, ⟨[], (List.append_nil _).symm⟩, fun _ => rfl⟩
  · rw [exec_rxMsg, ingest_badChecksum_dropped hlen hbad hdrop]
    rfl

/-- The result's value is R117's, wherever that rule gives one. -/
theorem isValue_resultValue (s : State) : Spec.IsValue s.cmdr s.buf (resultValue s) := by
  intro w hw
  unfold resultValue
  cases hk : s.cmdr with
  | none => simp [Spec.value, hk] at hw
  | queryBytes | queryByte | queryRange | queryBulk =>
    simpa [Spec.value, hk, concatData_eq_flatten, pairData] using hw

/-- Settles O27: an append that completes is `endSessionOk` of `Spec.appended`, any other is `Spec.appended` alone. -/
theorem targetChunkCompletesTheQuery : Obligations.TargetChunkCompletesTheQuery := by
  refine fun f s hok hfits hroom => ⟨fun hc => ?_, fun hopen => ?_⟩
  · refine ⟨_, isValue_resultValue (Spec.appended f s), ?_⟩
    rw [exec_rxMsg, ingest_fits_completes hok hfits hroom hc]
    rfl
  · rw [exec_rxMsg, ingest_fits_continues hok hfits hroom hopen]

/-! ### Everything an inbound message can do -/

/-- Nothing changed but the flags of the four errors a message can raise (R141, R142, R144, R145), and the outputs. -/
def Reported (s t : State) : Prop :=
  ∃ frm runt ovf cse out,
    t = { s with status := { s.status with frm := frm, runt := runt, ovf := ovf, cse := cse }, out := out }

/-- Everything an inbound message can do in the state `s`; `ingest_ingested` ties it to `ingest`. -/
inductive Ingested (s : State) : State → Prop where
  /-- Dropped with a report (R141, R142, R144, R145). -/
  | dropped {t : State} (h : Reported s t) : Ingested s t
  /-- Appended, and the session, if there is one, goes on (R146). -/
  | appended (f : List Byte) (hopen : ¬ CompletesWith s) : Ingested s (Spec.appended f s)
  /-- Appended as the last chunk of its session (R147). -/
  | completed (f : List Byte) (hc : CompletesWith s) : Ingested s (endSessionOk (Spec.appended f s))

theorem ingest_ingested (k : MsgKind) (f : List Byte) (s : State) : Ingested s (ingest k f s) := by
  cases k with
  | other => exact .dropped ⟨_, _, _, _, _, rfl⟩
  | sysex =>
    by_cases hrunt : f.length < 12
    · rw [ingest_runt hrunt]
      exact .dropped ⟨_, _, _, _, _, rfl⟩
    have hlen := Nat.le_of_not_lt hrunt
    by_cases hok : verify f = true ∨ s.cfg.dropBadCsum = false
    · by_cases hno : s.buf.length = s.cfg.bufChunks ∨ 12 + s.cfg.bufPayloadMax < f.length
      · rw [ingest_overflows hlen hok hno, raise_overflow_checked]
        exact .dropped ⟨_, _, _, _, _, rfl⟩
      obtain ⟨hroom, hshort⟩ := not_or.1 hno
      have hfits : Spec.Fits s.cfg f := ⟨hlen, Nat.le_of_not_lt hshort⟩
      by_cases hc : CompletesWith s
      · rw [ingest_fits_completes hok hfits hroom hc]
        exact .completed f hc
      · rw [ingest_fits_continues hok hfits hroom hc]
        exact .appended f hc
    · obtain ⟨hbad, hdrop⟩ := not_or.1 hok
      rw [ingest_badChecksum_dropped hlen (Bool.eq_false_iff.2 hbad) (Bool.eq_true_of_not_eq_false hdrop)]
      exact .dropped ⟨_, _, _, _, _, rfl⟩

/-- Settles O29: read off each thing an inbound message can do. -/
theorem inboundMessageFrame : Obligations.InboundMessageFrame := by
  intro i s t hi h
  have hingested : Ingested s t := by
    obtain ⟨k, f, rfl⟩ | ⟨head, addr, data, csum, rfl⟩ := hi <;> cases h <;> exact ingest_ingested _ _ s
  cases hingested with
  | dropped hr =>
    obtain ⟨_, _, _, _, _, rfl⟩ := hr
    exact ⟨⟨rfl, rfl, rfl, rfl, rfl⟩, rfl, rfl, rfl, ⟨[], by simp⟩, .inl rfl⟩
  | appended f _ => exact ⟨⟨rfl, rfl, rfl, rfl, rfl⟩, rfl, rfl, rfl, ⟨[_], rfl, le_rfl, rfl⟩, .inl rfl⟩
  | completed f hc => exact ⟨⟨rfl, rfl, rfl, rfl, rfl⟩, rfl, rfl, rfl, ⟨[_], rfl, le_rfl, rfl⟩, .inr ⟨hc.1, rfl⟩⟩

end Sys2Proof.Machine
end

section
/-! PROOFS. The invariants of the block, kept by every operation and so by every step (R12 to R17, R151). -/

namespace Sys2Proof.Machine

/-! ### The two halves of the invariants: the buffer, and the session -/

/-- The invariants that speak of the session: its target, the two flags that end it, and the two waits. -/
structure SessionInv (s : State) : Prop where
  tgt_pos : s.tgtEn = true → 1 ≤ s.tgt.toNat
  one_end : ¬ (s.status.done = true ∧ s.status.timeout = true)
  waiting_flags : s.fsm ≠ .idle → s.status.done = false ∧ s.status.timeout = false
  wait_count : s.fsm = .waitCount →
    s.tgtEn = true ∧ s.cnt.toNat < s.tgt.toNat ∧ 1 ≤ s.tmr.toNat ∧ s.tmr.toNat ≤ 5 ∧ s.cmdr.Counted
  wait_delay : s.fsm = .waitDelay → s.tgtEn = false ∧ 1 ≤ s.tmr.toNat ∧ s.cmdr = .queryBulk

theorem State.Inv.countedBuffer {s : State} (h : s.Inv) : CountedBuffer s := ⟨h.cfg_legal.2.1, h.buf_wf, h.cnt_eq⟩

theorem State.Inv.session {s : State} (h : s.Inv) : SessionInv s :=
  ⟨h.tgt_pos, h.one_end, h.waiting_flags, h.wait_count, h.wait_delay⟩

theorem inv_of_session {s : State} (hcfg : s.cfg.Legal) (hbuf : CountedBuffer s) (hs : SessionInv s) : s.Inv :=
  ⟨hcfg, hbuf.wf, hbuf.cnt_eq, hs.tgt_pos, hs.one_end, hs.waiting_flags, hs.wait_count, hs.wait_delay⟩

theorem State.Inv.with_inbox {s : State} (h : s.Inv) (rest : List PortEvent) : { s with inbox := rest }.Inv :=
  inv_of_session h.cfg_legal ⟨h.cfg_legal.2.1, h.buf_wf, h.cnt_eq⟩
    ⟨h.tgt_pos, h.one_end, h.waiting_flags, h.wait_count, h.wait_delay⟩

/-! ### The session's half -/

/-- Of the flags only `DONE` and `TO` matter, and the outputs do not. -/
theorem SessionInv.of_same_ends {s t : State} (h : SessionInv s)
    (hsame : t = { s with status := t.status, out := t.out }) (hdone : t.status.done = s.status.done)
    (htimeout : t.status.timeout = s.status.timeout) : SessionInv t := by
  rw [hsame]
  refine ⟨h.tgt_pos, ?_, ?_, h.wait_count, h.wait_delay⟩ <;> dsimp only <;> rw [hdone, htimeout]
  · exact h.one_end
  · exact h.waiting_flags

theorem sessionInv_of_idle {s : State} (hidle : s.fsm = .idle) (htgt : s.tgtEn = true → 1 ≤ s.tgt.toNat)
    (hend : ¬ (s.status.done = true ∧ s.status.timeout = true)) : SessionInv s where
  tgt_pos := htgt
  one_end := hend
  waiting_flags := by simp [hidle]
  wait_count := by simp [hidle]
  wait_delay := by simp [hidle]

/-- A wait that ends well sets `DONE` where `TO` is 0 (R147, R149). -/
theorem SessionInv.endSessionOk {s : State} (htgt : s.tgtEn = true → 1 ≤ s.tgt.toNat)
    (h : s.status.timeout = false) : SessionInv (endSessionOk s) :=
  sessionInv_of_idle rfl htgt (by simp [h])

/-- A wait that times out sets `TO` where `DONE` is 0 (R148). -/
theorem SessionInv.endSessionTimeout {s : State} (htgt : s.tgtEn = true → 1 ≤ s.tgt.toNat)
    (h : s.status.done = false) : SessionInv (endSessionTimeout s) :=
  sessionInv_of_idle rfl htgt (by simp [h])

theorem sessionInv_openCounted {kind : QueryKind} (hk : kind.Counted) (len : BitVec 28) (payload : List Byte)
    (s : State) : SessionInv (openCounted kind (targetChunks len) payload s) := by
  have htgt : 1 ≤ (targetChunks len).toNat := targetChunks_toNat len ▸ Nat.succ_pos _
  exact
    { tgt_pos := fun _ => htgt
      one_end := by simp [Status.clear]
      waiting_flags := fun _ => ⟨rfl, rfl⟩
      wait_count := fun _ => ⟨rfl, htgt, by simp, by simp, hk⟩
      wait_delay := by simp }

theorem sessionInv_bulkSession {delay : BitVec 16} (hd : delay ≠ 0) (addr size : Quad) (s : State) :
    SessionInv (bulkSession addr size delay s) where
  tgt_pos := by simp [bulkSession]
  one_end := by simp [bulkSession, Status.clear]
  waiting_flags := fun _ => ⟨rfl, rfl⟩
  wait_count := by simp [bulkSession]
  wait_delay := by
    have hpos : 1 ≤ delay.toNat := by bv_omega
    exact fun _ => ⟨rfl, hpos, rfl⟩

/-- An append that does not complete the session leaves `CNT` below `TGT`; one that does ends it well. -/
theorem Ingested.sessionInv {s t : State} (h : Ingested s t) (hs : SessionInv s) : SessionInv t := by
  cases h with
  | dropped hr =>
    obtain ⟨_, _, _, _, _, rfl⟩ := hr
    exact hs.of_same_ends rfl rfl rfl
  | appended f hopen =>
    refine ⟨hs.tgt_pos, hs.one_end, hs.waiting_flags, fun hw => ?_, hs.wait_delay⟩
    obtain ⟨hen, hbelow, htime, htimeout, hk⟩ := hs.wait_count hw
    have hnext : s.cnt + 1 ≠ s.tgt := fun hlast => hopen ⟨hw, hen, hlast⟩
    have hstill : (s.cnt + 1).toNat < s.tgt.toNat := by bv_omega
    exact ⟨hen, hstill, htime, htimeout, hk⟩
  | completed f hc =>
    obtain ⟨-, hno⟩ := hs.waiting_flags (by simp [hc.1])
    exact .endSessionOk (s := Spec.appended f s) hs.tgt_pos hno

/-- A tick that does not end a wait leaves its timer above 0. -/
theorem SessionInv.countDown {s : State} (h : SessionInv s) (ht : s.tmr - 1 ≠ 0) : SessionInv (countDown s) where
  tgt_pos := h.tgt_pos
  one_end := h.one_end
  waiting_flags := h.waiting_flags
  wait_count := fun hw => by
    obtain ⟨hen, hbelow, htime, htimeout, hk⟩ := h.wait_count hw
    exact ⟨hen, hbelow, by rw [countDown_tmr]; bv_omega, by rw [countDown_tmr]; bv_omega, hk⟩
  wait_delay := fun hw => by
    obtain ⟨hen, htime, hk⟩ := h.wait_delay hw
    exact ⟨hen, by rw [countDown_tmr]; bv_omega, hk⟩

theorem Effect.sessionInv {i : Instr} {s t : State} (h : Effect s i t) (hs : SessionInv s) : SessionInv t := by
  cases h with
  | held | tickIdle => exact hs
  | refused | stored | frameSent => exact hs.of_same_ends rfl rfl rfl
  | counted _ len _ _ hk => exact sessionInv_openCounted hk len _ s
  | bulkAtOnce => exact sessionInv_of_idle rfl (by simp) (by simp [Status.clear])
  | bulkWaits addr size _ hd => exact sessionInv_bulkSession hd addr size s
  | message | chunk => exact (ingest_ingested _ _ s).sessionInv hs
  | tickCounts _ ht => exact hs.countDown ht
  | tickTimesOut hw =>
    obtain ⟨hdone, -⟩ := hs.waiting_flags (by simp [hw])
    exact .endSessionTimeout (s := Machine.countDown s) hs.tgt_pos hdone
  | tickEndsDelay hw =>
    obtain ⟨-, htimeout⟩ := hs.waiting_flags (by simp [hw])
    exact .endSessionOk (s := Machine.countDown s) hs.tgt_pos htimeout
  | reset => exact sessionInv_of_idle rfl (by simp) (by simp [Status.clear])

/-! ### Operations and steps -/

theorem Effect.inv {i : Instr} {s t : State} (h : Effect s i t) (hs : s.Inv) : t.Inv :=
  inv_of_session (h.extends.1 ▸ hs.cfg_legal) (h.countedBuffer hs.countedBuffer) (h.sessionInv hs.session)

theorem State.Inv.refuse {s : State} (h : s.Inv) : (refuse s).Inv :=
  inv_of_session h.cfg_legal ⟨h.cfg_legal.2.1, h.buf_wf, h.cnt_eq⟩ (h.session.of_same_ends rfl rfl rfl)

/-- Settles O49: taking an event writes the ports only, and every effect of an operation keeps both halves of the
invariants. -/
theorem everyStepKeepsTheInvariants : Obligations.EveryStepKeepsTheInvariants := by
  intro s t hs h
  unfold Goes at h
  obtain ⟨-, hstep⟩ | ⟨_, rest, i, -, -, hstep⟩ | ⟨_, rest, _, -, -, hstep⟩ := step_cases s <;> rw [hstep] at h
  · cases h
    exact hs
  · exact (exec_effect h).inv (hs.with_inbox rest)
  · cases h
    exact (hs.with_inbox rest).refuse

end Sys2Proof.Machine
end

section
/-! PROOFS. Ticks, in and outside a wait (R148 to R150). -/

namespace Sys2Proof.Machine

/-! ### Everything a tick can do -/

theorem exec_tick_idle {s : State} (hidle : s.fsm = .idle) : exec .tick s = .next s := by
  simp only [exec, execTick, hidle]

theorem exec_tick_timesOut {s : State} (hw : s.fsm = .waitCount) (ht : s.tmr - 1 = 0) :
    exec .tick s = .next (endSessionTimeout (countDown s)) := by
  simp only [exec, execTick, hw, if_pos ht]

theorem exec_tick_cases {s t : State} (h : exec .tick s = .next t) :
    (s.fsm = .idle ∧ t = s) ∨
    (s.fsm ≠ .idle ∧ s.tmr - 1 ≠ 0 ∧ t = countDown s) ∨
    (s.fsm = .waitCount ∧ s.tmr - 1 = 0 ∧ t = endSessionTimeout (countDown s)) ∨
    (s.fsm = .waitDelay ∧ s.tmr - 1 = 0 ∧ t = endSessionOk (countDown s)) := by
  by_cases hidle : s.fsm = .idle
  · rw [exec_tick_idle hidle] at h
    cases h
    exact .inl ⟨hidle, rfl⟩
  by_cases ht : s.tmr - 1 = 0
  · cases hf : s.fsm with
    | idle => exact absurd hf hidle
    | waitCount =>
      rw [exec_tick_timesOut hf ht] at h
      cases h
      exact .inr (.inr (.inl ⟨rfl, ht, rfl⟩))
    | waitDelay =>
      rw [exec_tick_endsDelay hf ht] at h
      cases h
      exact .inr (.inr (.inr ⟨rfl, ht, rfl⟩))
  · rw [exec_tick_counts hidle ht] at h
    cases h
    exact .inr (.inl ⟨hidle, ht, rfl⟩)

/-- Settles O34. -/
theorem tickInIdleDoesNothing : Obligations.TickInIdleDoesNothing := fun _ => exec_tick_idle

/-- Settles O35: read off each thing a tick can do. -/
theorem tickFrame : Obligations.TickFrame := by
  intro s t h
  obtain ⟨-, rfl⟩ | ⟨-, -, rfl⟩ | ⟨-, -, rfl⟩ | ⟨-, -, rfl⟩ := exec_tick_cases h <;>
    exact ⟨⟨rfl, rfl, rfl, rfl, rfl⟩, rfl, rfl, rfl, rfl, rfl, rfl, rfl⟩

/-! ### A tick in a wait (R148, R149) -/

/-- With more than one tick left a tick takes one off the timer, in either wait. -/
theorem exec_tick_of_two_le {s : State} (hw : s.fsm ≠ .idle) (h : 2 ≤ s.tmr.toNat) :
    exec .tick s = .next { s with tmr := BitVec.ofNat 16 (s.tmr.toNat - 1) } := by
  have hleft : s.tmr - 1 ≠ 0 := by bv_omega
  have hless : s.tmr - 1 = BitVec.ofNat 16 (s.tmr.toNat - 1) := by bv_omega
  rw [exec_tick_counts hw hleft, countDown, hless]

theorem tmr_sub_one_eq_zero {s : State} (h : s.tmr.toNat = 1) : s.tmr - 1 = 0 := by bv_omega

/-- A waiting block with more ticks left than `n` takes in `n` ticks and waits on. -/
theorem run_ticks {n : Nat} {s : State} {rest : List PortEvent} (hw : s.fsm ≠ .idle) (htime : n < s.tmr.toNat)
    (hin : s.inbox = List.replicate n .tick ++ rest) :
    ∃ u : State, core.run n s = .next u ∧ u.inbox = rest ∧ Took s (List.replicate n .tick) u := by
  induction n generalizing s with
  | zero => exact ⟨s, rfl, hin, .nil s⟩
  | succ n ih =>
    have hleft : s.tmr - 1 ≠ 0 := by bv_omega
    have hstep : step s = .next (countDown { s with inbox := List.replicate n .tick ++ rest }) := by
      rw [step_event rfl rfl hin]
      exact exec_tick_counts hw hleft
    obtain ⟨u, hrun, hu, htook⟩ := ih (s := countDown { s with inbox := List.replicate n .tick ++ rest }) hw
      (by rw [countDown_tmr]; bv_omega) rfl
    exact ⟨u, (run_cons hstep).trans hrun, hu, (took_tick s _).trans htook⟩

/-- Settles O32: `run_ticks` for the four ticks, then the fifth times out. -/
theorem tickCountsDownTheTimeout : Obligations.TickCountsDownTheTimeout := by
  intro s hw
  have hwaits : s.fsm ≠ .idle := by simp [hw]
  refine ⟨exec_tick_of_two_le hwaits, fun hlast => ?_, fun rest hfive hin => ?_⟩
  · have hzero := tmr_sub_one_eq_zero hlast
    refine ⟨resultValue (raise .timeout (countDown s)), isValue_resultValue (raise .timeout (countDown s)), ?_⟩
    rw [exec_tick_timesOut hw hzero, ← hzero, List.append_cons s.out]
    rfl
  · obtain ⟨u, hrun, hrest, htook⟩ := run_ticks (n := 4) (rest := .tick :: rest) hwaits (by omega) hin
    have hwu : u.fsm = .waitCount := htook.fsm.trans hw
    have hone : u.tmr.toNat = 1 := (htook.tmr_toNat (by simp [hfive])).trans (by simp [hfive])
    have hstep : step u = .next (endSessionTimeout (countDown { u with inbox := rest })) := by
      rw [step_event rfl rfl hrest]
      exact exec_tick_timesOut hwu (tmr_sub_one_eq_zero hone)
    refine ⟨⟨u, hrun, hwu⟩, _, run_concat hrun hstep, rfl, rfl, ?_, ?_⟩
    · exact htook.buf.trans (List.append_nil _)
    · exact htook.cnt.trans (BitVec.add_zero _)

/-- Settles O33. -/
theorem tickCountsDownTheDelay : Obligations.TickCountsDownTheDelay := by
  refine fun s hw => ⟨exec_tick_of_two_le (by simp [hw]), fun hlast hk => ?_⟩
  have hzero := tmr_sub_one_eq_zero hlast
  have hvalue : resultValue (countDown s) = .pairs (s.buf.map fun e => (e.addr, e.data)) :=
    resultValue_pairs (.inr hk)
  rw [exec_tick_endsDelay hw hzero, ← hzero, ← hvalue]
  rfl

end Sys2Proof.Machine
end

section
/-! PROOFS. The moves of `FSM`, event by event (R151). -/

namespace Sys2Proof.Machine

theorem exec_sendStore_fsm {addr : Quad} {data : List Byte} {s t : State}
    (h : exec (.sendStore addr data) s = .next t) : t.fsm = s.fsm := by
  by_cases hidle : s.fsm = .idle
  · rw [exec_sendStore_idle hidle] at h
    cases h
    split <;> rfl
  · rw [commandsOutsideIdleHaveNoEffect _ s rfl hidle] at h
    cases h
    rfl

/-- Of the cases of `Effect` an accepted query that is not a bulk query has the counted session alone (R113 to R115). -/
theorem exec_query_waitsCount {i : Instr} {s t : State} (hq : Spec.IsQuery i) (hidle : s.fsm = .idle)
    (hwf : i.wellFormed s.cfg = true) (hbulk : ∀ a z d, i ≠ .queryBulk a z d) (h : exec i s = .next t) :
    t.fsm = .waitCount := by
  cases exec_effect h with
  | counted => rfl
  | held _ hw => exact absurd hidle hw
  | refused _ _ hill => simp [hwf] at hill
  | bulkAtOnce | bulkWaits => exact absurd rfl (hbulk _ _ _)
  | stored | message | chunk | tickIdle | tickCounts | tickTimesOut | tickEndsDelay | reset => cases hq
  | frameSent hout => exact absurd (isCommand_of_isQuery hq) (by simp [isCommand_of_outbound hout])

theorem exec_queryBulk_fsm {addr size : Quad} {delay : BitVec 16} {s t : State} (hidle : s.fsm = .idle)
    (h : exec (.queryBulk addr size delay) s = .next t) : t.fsm = if delay = 0 then .idle else .waitDelay := by
  rw [exec_queryBulk_idle hidle] at h
  cases h
  by_cases hd : delay = 0
  · rw [if_pos hd, if_pos hd]
    rfl
  · rw [if_neg hd, if_neg hd]

/-- The count tells a chunk that completes the session from any other message. -/
theorem Ingested.fsm {s t : State} (h : Ingested s t) :
    t.fsm = if s.fsm = .waitCount ∧ s.tgtEn = true ∧ t.cnt = s.cnt + 1 ∧ t.cnt = t.tgt then .idle else s.fsm := by
  cases h with
  | dropped hr =>
    obtain ⟨_, _, _, _, _, rfl⟩ := hr
    have hcnt : s.cnt ≠ s.cnt + 1 := by bv_omega
    exact (if_neg fun ⟨_, _, hcounted, _⟩ => hcnt hcounted).symm
  | appended f hopen => exact (if_neg fun ⟨hw, hen, _, hlast⟩ => hopen ⟨hw, hen, hlast⟩).symm
  | completed f hc =>
    obtain ⟨hw, hen, hlast⟩ := hc
    exact (if_pos ⟨hw, hen, rfl, hlast⟩).symm

theorem exec_tick_fsm {s t : State} (h : exec .tick s = .next t) :
    t.fsm = if s.fsm ≠ .idle ∧ t.tmr = 0 then .idle else s.fsm := by
  obtain ⟨hidle, rfl⟩ | ⟨-, ht, rfl⟩ | ⟨hw, ht, rfl⟩ | ⟨hw, ht, rfl⟩ := exec_tick_cases h
  · exact (if_neg fun hwait => hwait.1 hidle).symm
  · exact (if_neg fun hwait => ht hwait.2).symm
  · exact (if_pos ⟨by simp [hw], ht⟩).symm
  · exact (if_pos ⟨by simp [hw], ht⟩).symm

/-- Settles O43: one lemma for each row of the table. -/
theorem fsmMovesOnlyAsTabled : Obligations.FsmMovesOnlyAsTabled := by
  refine fun i s t h => ⟨?reset, ?store, ?refused, fun hq hidle hwf hbulk => exec_query_waitsCount hq hidle hwf hbulk h,
    ?bulk, ?held, ?message, ?tick⟩
  case reset =>
    rintro rfl
    cases h
    rfl
  case store =>
    rintro addr data rfl
    exact exec_sendStore_fsm h
  case refused =>
    intro hq hidle hwf
    rw [exec_command_illFormed (isCommand_of_isQuery hq) hidle hwf] at h
    cases h
    exact hidle
  case bulk =>
    rintro addr size delay rfl hidle
    exact exec_queryBulk_fsm hidle h
  case held =>
    intro hi hw
    rw [commandsOutsideIdleHaveNoEffect i s hi hw] at h
    cases h
    rfl
  case message =>
    rintro k f rfl
    rw [exec_rxMsg] at h
    cases h
    exact (ingest_ingested k f s).fsm
  case tick =>
    rintro rfl
    exact exec_tick_fsm h

end Sys2Proof.Machine
end

section
/-! PROOFS. The byte-serial receiver computes the atomic ingestion step (R152). -/

namespace Sys2Proof.Machine

/-! ### The scratch registers after some bytes -/

theorem rxSerial_other (f : List Byte) (s : State) : rxSerial .other f s = raise .framingKind s := by
  have hscratch : f.foldl (rxByte s.cfg) (rxStart .other) = rxStart .other := by
    induction f with
    | nil => rfl
    | cons b bs ih => exact ih
  rw [rxSerial, hscratch]
  rfl

/-- Every byte of a sysex message is counted. -/
theorem foldl_rxByte_rxi (c : Config) (f : List Byte) {x : RxScratch} (hx : x.kind = .sysex) :
    (f.foldl (rxByte c) x).kind = .sysex ∧ (f.foldl (rxByte c) x).rxi = x.rxi + f.length := by
  induction f generalizing x with
  | nil => exact ⟨hx, rfl⟩
  | cons b bs ih =>
    have hb : (rxByte c x b).kind = .sysex ∧ (rxByte c x b).rxi = x.rxi + 1 := by simp [rxByte, hx]
    obtain ⟨hkind, hrxi⟩ := ih hb.1
    refine ⟨hkind, ?_⟩
    rw [List.foldl_cons, hrxi, hb.2, List.length_cons]
    omega

/-- The scratch registers once the head, the address and then `body` have come: the entry under construction is as much
of `body` as it has room for. -/
def rxAfter (c : Config) (addr : Quad) (body : List Byte) : RxScratch where
  kind := .sysex
  rxi := 11 + body.length
  rsum := sum7 (quadBytes addr ++ body)
  a := addr
  data := body.take (c.bufPayloadMax + 1)
  last := (quadBytes addr ++ body).getLast?.getD 0
  full := decide (c.bufPayloadMax + 1 < body.length)

theorem foldl_rxByte_address (c : Config) (head : FrameHead) (addr : Quad) :
    (headBytes head ++ quadBytes addr).foldl (rxByte c) (rxStart .sysex) = rxAfter c addr [] := by
  simp [headBytes, quadBytes, rxByte, rxStart, rxAfter, rxAddress, sum7]

theorem rxByte_rxAfter (c : Config) (addr : Quad) (body : List Byte) (b : Byte) :
    rxByte c (rxAfter c addr body) b = rxAfter c addr (body ++ [b]) := by
  have hdata : (if 11 ≤ 11 + body.length ∧ (body.take (c.bufPayloadMax + 1)).length ≤ c.bufPayloadMax then
      body.take (c.bufPayloadMax + 1) ++ [b] else body.take (c.bufPayloadMax + 1)) =
      (body ++ [b]).take (c.bufPayloadMax + 1) := by
    rw [List.length_take]
    split
    · next hroom =>
      rw [List.take_of_length_le (by omega), List.take_of_length_le (by simp; omega)]
    · next hfull => rw [List.take_append_of_le_length (by omega)]
  have hfull : (decide (c.bufPayloadMax + 1 < body.length) ||
      decide (11 ≤ 11 + body.length ∧ c.bufPayloadMax < (body.take (c.bufPayloadMax + 1)).length)) =
      decide (c.bufPayloadMax + 1 < (body ++ [b]).length) := by
    rw [← Bool.decide_or, decide_eq_decide, List.length_take, List.length_append, List.length_singleton]
    omega
  have hsum : (if 7 ≤ 11 + body.length then sumByte (sum7 (quadBytes addr ++ body)) b
      else sum7 (quadBytes addr ++ body)) = sum7 (quadBytes addr ++ (body ++ [b])) := by
    rw [if_pos (by omega), ← List.append_assoc, sum7_append_singleton]
  have haddr : rxAddress (11 + body.length) b addr = addr := by
    simp only [rxAddress]
    repeat rw [if_neg (by omega)]
  have hlast : b = (quadBytes addr ++ (body ++ [b])).getLast?.getD 0 := by simp
  simp only [rxByte, rxAfter, RxScratch.mk.injEq]
  exact ⟨trivial, by simp [Nat.add_assoc], hsum, haddr, hdata, hlast, hfull⟩

theorem foldl_rxByte_chunk (c : Config) (head : FrameHead) (addr : Quad) (body : List Byte) :
    (headBytes head ++ quadBytes addr ++ body).foldl (rxByte c) (rxStart .sysex) = rxAfter c addr body := by
  induction body using List.reverseRecOn with
  | nil => rw [List.append_nil, foldl_rxByte_address]
  | append_singleton body b ih => rw [← List.append_assoc, List.foldl_concat, ih, rxByte_rxAfter]

/-! ### The end of the message -/

/-- The running sum over the whole payload with its checksum is 0 exactly when the checksum, a digit, is right. -/
theorem rsum_verdict (p : List Byte) (csum : Byte) :
    (sum7 (p ++ [csum]) == 0 && decide (csum < 0x80)) = (csum == checksum p) := by
  have hzero : sum7 (p ++ [csum]) = 0 ↔ ((p.map BitVec.toNat).sum + csum.toNat) % 128 = 0 := by
    rw [← BitVec.toNat_inj, sum7_toNat]
    simp
  have hdigit : csum < 0x80 ↔ csum.toNat < 128 := BitVec.lt_def
  rw [Bool.eq_iff_iff, Bool.and_eq_true, beq_iff_eq, beq_iff_eq, decide_eq_true_iff, hzero, hdigit, eq_comm (a := csum),
    checksum_eq_iff, and_comm]

/-- Of a chunk that is too long only the verdict is looked at (R144, R145). -/
theorem ingestFields_tooLong (addr : Quad) (data data' : List Byte) (ok : Bool) (s : State) :
    ingestFields ⟨addr, data, ok⟩ true s = ingestFields ⟨addr, data', ok⟩ true s := by
  simp only [ingestFields, or_true, if_true]

theorem rxSerial_chunk (head : FrameHead) (addr : Quad) (data : List Byte) (csum : Byte) (s : State) :
    rxSerial .sysex (headBytes head ++ quadBytes addr ++ data ++ [csum]) s =
      ingest .sysex (headBytes head ++ quadBytes addr ++ data ++ [csum]) s := by
  have hlong : ¬ 11 + (data ++ [csum]).length < 12 := by simp; omega
  have hlast : (quadBytes addr ++ (data ++ [csum])).getLast?.getD 0 = csum := by simp
  have hverdict : (sum7 (quadBytes addr ++ (data ++ [csum])) == 0 && decide (csum < 0x80)) =
      (csum == checksum (quadBytes addr ++ data)) := by
    rw [← List.append_assoc, rsum_verdict]
  rw [ingest_chunk, rxSerial, List.append_assoc _ data, foldl_rxByte_chunk]
  simp only [rxEnd, rxAfter, if_neg hlong, hlast, hverdict]
  by_cases hfits : s.cfg.bufPayloadMax < data.length
  · have hfull : s.cfg.bufPayloadMax + 1 < (data ++ [csum]).length := by simpa using hfits
    rw [decide_eq_true hfits, decide_eq_true hfull]
    exact ingestFields_tooLong ..
  · have hroom : ¬ s.cfg.bufPayloadMax + 1 < (data ++ [csum]).length := by simpa using hfits
    rw [decide_eq_false hfits, decide_eq_false hroom, List.take_of_length_le (Nat.le_of_not_lt hroom),
      List.dropLast_concat]

/-- Settles O31: of another kind, a runt, or a chunk. -/
theorem serialReceiverEqualsIngestionStep : Obligations.SerialReceiverEqualsIngestionStep := by
  intro k f s
  refine congrArg Host.Outcome.next ?_
  cases k with
  | other => exact rxSerial_other f s
  | sysex =>
    by_cases hrunt : f.length < 12
    · obtain ⟨hkind, hrxi⟩ := foldl_rxByte_rxi s.cfg f (x := rxStart .sysex) rfl
      have hshort : (f.foldl (rxByte s.cfg) (rxStart .sysex)).rxi < 12 := by
        rw [hrxi]
        simpa [rxStart] using hrunt
      simp only [rxSerial, rxEnd, hkind, if_pos hshort, ingest_runt hrunt]
    · obtain ⟨head, addr, data, csum, rfl⟩ := exists_chunk (Nat.le_of_not_lt hrunt)
      exact rxSerial_chunk head addr data csum s

end Sys2Proof.Machine
end

section
/-! PROOFS. Every wait ends: each step of a waiting block takes an event, and each tick it takes is off its timer
(R110, R151). -/

namespace Sys2Proof.Machine

theorem State.Inv.tmr_pos {s : State} (h : s.Inv) (hw : s.fsm ≠ .idle) : 1 ≤ s.tmr.toNat := by
  cases hf : s.fsm with
  | idle => exact absurd hf hw
  | waitCount =>
    obtain ⟨-, -, htime, -⟩ := h.wait_count hf
    exact htime
  | waitDelay =>
    obtain ⟨-, htime, -⟩ := h.wait_delay hf
    exact htime

/-- From `s` to `t` the wait ended, or it goes on with the timer counted down by `ticks`. -/
def WaitsWith (ticks : Nat) (s t : State) : Prop := t.fsm = .idle ∨ (t.fsm = s.fsm ∧ t.tmr.toNat + ticks = s.tmr.toNat)

theorem exec_tick_waits {s t : State} (htime : 1 ≤ s.tmr.toNat) (h : exec .tick s = .next t) : WaitsWith 1 s t := by
  obtain ⟨hidle, rfl⟩ | ⟨-, -, rfl⟩ | ⟨-, -, rfl⟩ | ⟨-, -, rfl⟩ := exec_tick_cases h
  · exact .inl hidle
  · refine .inr ⟨rfl, ?_⟩
    rw [countDown_tmr]
    bv_omega
  · exact .inl rfl
  · exact .inl rfl

theorem exec_rxMsg_waits {k : MsgKind} {f : List Byte} {s t : State} (h : exec (.rxMsg k f) s = .next t) :
    WaitsWith 0 s t := by
  obtain ⟨-, htmr, -, -, -, hfsm | ⟨-, hidle⟩⟩ := inboundMessageFrame _ s t (.inl ⟨k, f, rfl⟩) h
  · exact .inr ⟨hfsm, congrArg BitVec.toNat htmr⟩
  · exact .inl hidle

/-- An event that is no command runs in a wait; if it does not end the wait it takes its ticks off the timer. -/
theorem exists_step_event {e : PortEvent} {s : State} (he : isCommandEvent e = false) (htime : 1 ≤ s.tmr.toNat) :
    ∃ i t, decodeEvent e = .ok i ∧ exec i s = .next t ∧ WaitsWith ([e].count .tick) s t := by
  cases e with
  | command b => cases he
  | message k f => exact ⟨_, _, rfl, rfl, exec_rxMsg_waits (exec_rxMsg k f s)⟩
  | tick =>
    obtain ⟨t, ht⟩ := exec_goes .tick s
    exact ⟨_, t, rfl, ht, exec_tick_waits htime ht⟩
  | reset => exact ⟨_, _, rfl, rfl, .inl rfl⟩

/-- A waiting block with a tick among its pending events takes one event from its ports. -/
theorem waiting_step {s : State} (hw : s.fsm ≠ .idle) (htime : 1 ≤ s.tmr.toNat) (htick : 1 ≤ s.inbox.count .tick) :
    ∃ (e : PortEvent) (t : State), step s = .next t ∧ s.inbox.length = t.inbox.length + 1 ∧
      s.inbox.count .tick = t.inbox.count .tick + [e].count .tick ∧ WaitsWith ([e].count .tick) s t := by
  cases htake : takeEvent s.fsm s.inbox with
  | none => exact absurd (takeEvent_none htake .tick (List.one_le_count_iff.1 htick)) (by decide)
  | some p =>
    obtain ⟨e, rest⟩ := p
    obtain ⟨held, after, hin, rfl, -, -, hevent⟩ := takeEvent_some htake
    obtain ⟨i, t, hdecode, ht, hwaits⟩ :=
      exists_step_event (s := { s with inbox := held ++ after }) (hevent hw) htime
    have hrest : t.inbox = held ++ after := (exec_effect ht).inbox
    refine ⟨e, t, (step_of_decode_ok htake hdecode).trans ht, ?_, ?_, hwaits⟩
    · rw [hin, hrest, List.length_append, List.length_append, List.length_cons, Nat.add_assoc]
    · rw [hin, hrest, List.append_cons, List.count_append, List.count_append, List.count_append]
      omega

/-- Settles O51, by induction on the number of pending events: the ticks that are pending cover the timer until the wait
ends. -/
theorem waitEndsWithinTmrTicks : Obligations.WaitEndsWithinTmrTicks := by
  intro s
  induction hn : s.inbox.length generalizing s with
  | zero =>
    intro hs hw hticks
    have htime := hs.tmr_pos hw
    simp [List.length_eq_zero_iff.1 hn] at hticks
    omega
  | succ n ih =>
    intro hs hw hticks
    have htime := hs.tmr_pos hw
    obtain ⟨e, t, hstep, hlen, hcount, hend⟩ := waiting_step hw htime (Nat.le_trans htime hticks)
    have hone : [e].count .tick ≤ 1 := List.count_le_length
    by_cases hidle : t.fsm = .idle
    · exact ⟨1, t, by omega, run_cons hstep, hidle, by omega⟩
    · obtain ⟨-, htmr⟩ := hend.resolve_left hidle
      obtain ⟨k, u, hk, hrun, hu, hcount'⟩ :=
        ih t (by omega) (everyStepKeepsTheInvariants s t hs hstep) hidle (by omega)
      exact ⟨k + 1, u, by omega, (run_cons hstep).trans hrun, hu, by omega⟩

end Sys2Proof.Machine
end

section
/-! PROOFS. A counted query that runs out of time, from end to end (R113, R117, R148). -/

namespace Sys2Proof.Machine

theorem endSessionTimeout_getLast (s : State) :
    (endSessionTimeout s).out.getLast? = some (.result .timeout (resultValue (raise .timeout s))) := by
  simp

/-- A counted session whose timer runs out before its target comes takes in what came, and its last tick ends it. -/
theorem StaysOpen.run_timesOut {s : State} {es rest : List PortEvent} (h : StaysOpen s es) (hcount : s.fsm = .waitCount)
    (htmr : es.count .tick + 1 = s.tmr.toNat) (hin : s.inbox = es ++ .tick :: rest) :
    ∃ u : State, core.run (es.length + 1) s = .next (endSessionTimeout u) ∧ u.inbox = rest ∧ u.tmr = 0 ∧
      Took s (es ++ [.tick]) u := by
  obtain ⟨u, hrun, hu, htook⟩ := h.run_takes hin
  have hlast : u.tmr - 1 = 0 := by
    have hone := htook.tmr_toNat (by omega)
    exact tmr_sub_one_eq_zero (by omega)
  have hstep : step u = .next (endSessionTimeout (countDown { u with inbox := rest })) := by
    rw [step_event rfl rfl hu]
    exact exec_tick_timesOut (htook.fsm.trans hcount) hlast
  exact ⟨_, run_concat hrun hstep, rfl, hlast, htook.trans (took_tick u rest)⟩

/-- A fresh counted session stays open for fewer than five ticks and fewer frames than its target. -/
theorem staysOpen_counted_events {kind : QueryKind} {target : Nat} {payload : List Byte} {s : State}
    {es : List PortEvent} (hdrop : s.cfg.dropBadCsum = false) (hevents : ∀ e ∈ es, SessionEvent s.cfg e)
    (htarget : target < 2 ^ 21) (htime : es.count .tick < 5) (hshort : (es.filterMap Spec.sysexBytes).length < target)
    (hroom : (es.filterMap Spec.sysexBytes).length ≤ s.cfg.bufChunks) :
    StaysOpen (Spec.counted kind target payload s) es where
  waits := by simp [Spec.counted]
  keeps := hdrop
  events := hevents
  time := htime
  room := by simpa [Spec.counted] using hroom
  short := by
    rw [counted_tgt_toNat htarget]
    simpa [Spec.counted] using hshort

/-- Settles O54: the session stays open for what comes before the fifth tick, which ends it with what was taken in. -/
theorem shortQueryTimesOutAtTheFifthTick : Obligations.ShortQueryTimesOutAtTheFifthTick := by
  intro s addr len before rest hidle hdrop hlen hticks hevents hshort hroom hin
  have hstep := (step_idle_command hidle rfl hin).trans (exec_queryBytes_accepted hidle hlen)
  have hopen := staysOpen_counted_events (s := { s with inbox := before ++ .tick :: rest }) (kind := .queryBytes)
    (payload := quadBytes addr ++ quadBytes (encodeScalar (BitVec.ofNat 28 len.toNat)))
    hdrop hevents (by omega) (by omega) hshort hroom
  obtain ⟨u, hrun, hrest, hzero, htook⟩ := hopen.run_timesOut rfl (by rw [hticks]; rfl) rfl
  have hbuf : u.buf = (before.filterMap Spec.sysexBytes).map entryOf := by
    simpa [Spec.counted, List.filterMap_cons] using htook.buf
  refine ⟨endSessionTimeout u, (run_cons hstep).trans hrun, rfl, hrest, rfl, htook.done, hzero, ?_⟩
  rw [endSessionTimeout_getLast, resultValue_queryBytes (s := raise .timeout u) htook.cmdr, raise_buf, hbuf,
    data_entryOf]

end Sys2Proof.Machine
end

section
/-! PROOFS. What stands for taking an exception: an error's one flag and one report (R170, R71). -/

namespace Sys2Proof.Machine

/-- The bits of `STATUS`, bit 0 first. -/
def statusBits (s : State) : List Bool :=
  [s.busy, s.status.done, s.status.timeout, s.status.frm, s.status.runt, s.status.ovf, s.status.cse, s.status.arg]

theorem getLsbD_statusByte (s : State) (i : Nat) : s.statusByte.getLsbD i = (statusBits s).getD i false := by
  rw [statusByte_eq_ofBoolListLE, BitVec.getLsbD_ofBoolListLE, statusBits]

/-- The flag that `raise` sets stands at the bit that R17 gives it, whichever error it is. -/
theorem statusBits_raise (e : ErrorKind) (s : State) :
    statusBits (raise e s) = (statusBits s).set (Spec.flagBit e) true := by
  cases e <;> rfl

theorem flagBit_lt (e : ErrorKind) : Spec.flagBit e < 8 := by
  cases e <;> decide

theorem raise_statusByte (e : ErrorKind) (s : State) :
    (raise e s).statusByte = s.statusByte ||| BitVec.twoPow 8 (Spec.flagBit e) := by
  refine BitVec.eq_of_getLsbD_eq fun i _ => ?_
  rw [BitVec.getLsbD_or, BitVec.getLsbD_twoPow, getLsbD_statusByte, getLsbD_statusByte, statusBits_raise]
  by_cases hi : Spec.flagBit e = i
  · subst hi
    simp [statusBits, flagBit_lt]
  · simp [List.getElem?_set_ne hi, hi]

/-- Settles O47: `raise` writes the flags and the outputs only, and of the flags its own (`raise_statusByte`). -/
theorem raisingSetsOneFlagAndReports : Obligations.RaisingSetsOneFlagAndReports :=
  ⟨fun e s => ⟨raise_statusByte e s, raise_out s e, rfl⟩, rfl, rfl, rfl, rfl, rfl, rfl⟩

end Sys2Proof.Machine
end

section
/-! PROOFS. The last chunk and the last tick of a counted wait, in either order (R180). -/

namespace Sys2Proof.Machine

/-! ### The value of a result, where a rule gives one (R117) -/

theorem QueryKind.Counted.ne_none {k : QueryKind} (h : k.Counted) : k ≠ .none := by
  rintro rfl
  simp [QueryKind.Counted] at h

theorem value_eq_resultValue {s : State} (h : s.cmdr ≠ .none) : Spec.value s.cmdr s.buf = some (resultValue s) := by
  obtain ⟨w, hw⟩ : ∃ w, Spec.value s.cmdr s.buf = some w := by
    cases hk : s.cmdr with
    | none => exact absurd hk h
    | queryBytes | queryByte | queryRange | queryBulk => exact ⟨_, rfl⟩
  rw [hw, isValue_resultValue s w hw]

/-! ### Two events in a row -/

theorem run_two {s u t : State} (h : step s = .next u) (hu : step u = .next t) : core.run 2 s = .next t :=
  run_concat (k := 1) (run_cons h) hu

theorem step_tick_idle {s : State} {rest : List PortEvent} (hidle : s.fsm = .idle) (hin : s.inbox = .tick :: rest) :
    step s = .next { s with inbox := rest } := by
  rw [step_event rfl rfl hin]
  exact exec_tick_idle hidle

theorem step_lastTick {s : State} {rest : List PortEvent} (hw : s.fsm = .waitCount) (htmr : s.tmr - 1 = 0)
    (hin : s.inbox = .tick :: rest) :
    step s = .next (endSessionTimeout (countDown { s with inbox := rest })) := by
  rw [step_event rfl rfl hin]
  exact exec_tick_timesOut hw htmr

theorem step_lastChunk {s : State} {f : List Byte} {rest : List PortEvent} (hv : verify f = true)
    (hfits : Spec.Fits s.cfg f) (hroom : s.buf.length ≠ s.cfg.bufChunks) (hc : CompletesWith s)
    (hin : s.inbox = .message .sysex f :: rest) :
    step s = .next (endSessionOk (Spec.appended f { s with inbox := rest })) := by
  rw [step_event rfl rfl hin]
  exact congrArg Host.Outcome.next
    (ingest_fits_completes (s := { s with inbox := rest }) (.inl hv) hfits hroom hc)

/-- Outside a wait a chunk is carry-over: appended and counted, and nothing ends. -/
theorem step_carryOver {s : State} {f : List Byte} {rest : List PortEvent} (hidle : s.fsm = .idle)
    (hv : verify f = true) (hfits : Spec.Fits s.cfg f) (hroom : s.buf.length ≠ s.cfg.bufChunks)
    (hin : s.inbox = .message .sysex f :: rest) : step s = .next (Spec.appended f { s with inbox := rest }) := by
  have hopen : ¬ CompletesWith s := by simp [CompletesWith, hidle]
  rw [step_event rfl rfl hin]
  exact congrArg Host.Outcome.next
    (ingest_fits_continues (s := { s with inbox := rest }) (.inl hv) hfits hroom hopen)

theorem appended_out {f : List Byte} (hv : verify f = true) (s : State) : (Spec.appended f s).out = s.out := by
  simp [Spec.appended, hv]

/-! ### Both orders -/

/-- Settles O57: whichever event comes first ends the wait, and the other one finds `IDLE`. -/
theorem lastChunkAndLastTickRaceBothWays : Obligations.LastChunkAndLastTickRaceBothWays := by
  intro s f hs hw htmr hlast hv hfits hroom
  obtain ⟨hen, -, -, -, hk⟩ := hs.wait_count hw
  obtain ⟨hdone, htimeout⟩ := hs.waiting_flags (by simp [hw])
  refine ⟨fun hin => ?_, fun hin => ?_⟩
  · have hchunk := step_lastChunk hv hfits hroom ⟨hw, hen, hlast⟩ hin
    have htick := step_tick_idle (s := endSessionOk (Spec.appended f { s with inbox := [.tick] })) rfl rfl
    refine ⟨_, _, run_two hchunk htick, rfl, hlast, rfl, htimeout,
      value_eq_resultValue (s := Spec.appended f { s with inbox := [.tick] }) hk.ne_none, ?_⟩
    exact (endSessionOk_out _).trans (by rw [appended_out hv])
  · have htick := step_lastTick hw (by simp [htmr]) hin
    have hchunk := step_carryOver
      (s := endSessionTimeout (countDown { s with inbox := [.message .sysex f] })) rfl hv hfits hroom rfl
    refine ⟨_, _, run_two htick hchunk, rfl, hlast, hdone, rfl,
      value_eq_resultValue (s := raise .timeout (countDown { s with inbox := [.message .sysex f] })) hk.ne_none, ?_⟩
    rw [appended_out hv]
    exact List.append_assoc _ _ _

end Sys2Proof.Machine
end

section
/-! PROOFS. `RESET` in any state (R200). -/

namespace Sys2Proof.Machine

theorem exec_reset (s : State) :
    exec .reset s = .next { State.resetWith s.cfg with inbox := s.inbox, out := s.out } := rfl

/-- Settles O36: the next state is `State.resetWith` of the parameters, with the model's two lists kept. -/
theorem resetWritesEveryRegister : Obligations.ResetWritesEveryRegister := by
  refine fun s => ⟨exec_reset s, fun hcfg hin hout => ?_⟩
  rw [exec_reset, hcfg, hin, hout]
  rfl

end Sys2Proof.Machine
end

section
/-! PROOFS. A query of a multiple of 241 bytes, one chunk short of its target (R96, R205). -/

namespace Sys2Proof.Machine

/-- Frames with chunks of `n` bytes each carry `n` bytes a frame. -/
theorem length_flatten_chunkData {n : Nat} {frames : List (List Byte)} (h : ∀ f ∈ frames, f.length = n + 12) :
    (frames.map Spec.chunkData).flatten.length = frames.length * n := by
  have hdata : ∀ m ∈ (frames.map Spec.chunkData).map List.length, m = n := by
    simp only [List.map_map, List.mem_map]
    rintro _ ⟨f, hf, rfl⟩
    simp [Spec.chunkData, h f hf]
  rw [List.length_flatten, List.sum_eq_card_nsmul _ n hdata]
  simp

/-- What a device's answer leaves before the fifth tick: its frames, then the four ticks before. -/
def framesThenFourTicks (frames : List (List Byte)) : List PortEvent :=
  frames.map (.message .sysex) ++ [.tick, .tick, .tick, .tick]

theorem framesThenFourTicks_sysexBytes (frames : List (List Byte)) :
    (framesThenFourTicks frames).filterMap Spec.sysexBytes = frames := by
  simp [framesThenFourTicks, List.filterMap_cons]

theorem framesThenFourTicks_count_tick (frames : List (List Byte)) : (framesThenFourTicks frames).count .tick = 4 := by
  simp [framesThenFourTicks]

theorem framesThenFourTicks_events {c : Config} {frames : List (List Byte)} (h : ∀ f ∈ frames, Spec.Fits c f) :
    ∀ e ∈ framesThenFourTicks frames, SessionEvent c e := by
  intro e he
  rcases List.mem_append.1 he with hframe | htick
  · obtain ⟨f, hf, rfl⟩ := List.mem_map.1 hframe
    exact .inr (.inr ⟨f, rfl, h f hf⟩)
  · exact .inl (List.eq_of_mem_replicate (n := 4) htick)

/-- Settles O55: the target is one more than the chunks that come, so the query is short by that one
(`shortQueryTimesOutAtTheFifthTick`), and the chunks hold 241 bytes each. -/
theorem multipleOf241TimesOutWithAllItsBytes : Obligations.MultipleOf241TimesOutWithAllItsBytes := by
  intro s addr len frames rest hidle hdrop hmax hlt hmultiple hlen hroom hfull hin
  have hframes := framesThenFourTicks_sysexBytes frames
  have hfits : ∀ f ∈ frames, Spec.Fits s.cfg f := fun f hf => by
    have hlength := hfull f hf
    exact ⟨by omega, by omega⟩
  obtain ⟨t, hrun, hfsm, hrest, htimeout, hdone, -, hout⟩ :=
    shortQueryTimesOutAtTheFifthTick s addr len (framesThenFourTicks frames) rest hidle hdrop hlt
      (framesThenFourTicks_count_tick frames) (framesThenFourTicks_events hfits) (by rw [hframes]; omega)
      (by rwa [hframes]) (by simpa [framesThenFourTicks] using hin)
  rw [hframes] at hout
  have hbytes : (frames.map Spec.chunkData).flatten.length = len.toNat := by
    rw [length_flatten_chunkData hfull]
    omega
  exact ⟨t, _, by simpa [framesThenFourTicks] using hrun, hfsm, hrest, htimeout, hdone, hbytes, rfl, hout⟩

end Sys2Proof.Machine
end

section
/-! PROOFS. A stray frame before and after a query command (R51, R111, R203). -/

namespace Sys2Proof.Machine

/-- In `IDLE` a message of any kind leaves the block in `IDLE`. -/
theorem step_message_idle {k : MsgKind} {f : List Byte} {s : State} {rest : List PortEvent} (hidle : s.fsm = .idle)
    (hin : s.inbox = .message k f :: rest) :
    ∃ u, step s = .next u ∧ u.fsm = .idle ∧ u.cfg = s.cfg ∧ u.inbox = rest := by
  have hexec := exec_rxMsg k f { s with inbox := rest }
  obtain ⟨⟨hcfg, hrest, -⟩, -, -, -, -, hfsm⟩ := inboundMessageFrame _ _ _ (.inl ⟨k, f, rfl⟩) hexec
  refine ⟨_, (step_event rfl rfl hin).trans hexec, ?_, hcfg, hrest⟩
  obtain hsame | ⟨-, hends⟩ := hfsm
  · exact hsame.trans hidle
  · exact hends

/-- The session of an accepted `QUERY_BYTES` (R113). -/
def bytesSession (addr : Quad) (len : BitVec 32) (s : State) : State :=
  Spec.counted .queryBytes (len.toNat / 241 + 1)
    (quadBytes addr ++ quadBytes (encodeScalar (BitVec.ofNat 28 len.toNat))) s

theorem step_queryBytes {addr : Quad} {len : BitVec 32} {s : State} {rest : List PortEvent} (hidle : s.fsm = .idle)
    (hlen : len.toNat < 2 ^ 28) (hin : s.inbox = .command (encode s.cfg (.queryBytes addr len)) :: rest) :
    step s = .next (bytesSession addr len { s with inbox := rest }) :=
  (step_idle_command hidle rfl hin).trans (exec_queryBytes_accepted hidle hlen)

/-- A fresh session is complete at its first chunk exactly when it asks for less than a whole chunk (R96). -/
theorem completesWith_bytesSession {addr : Quad} {len : BitVec 32} {s : State} (hlen : len.toNat < 2 ^ 28) :
    CompletesWith (bytesSession addr len s) ↔ len.toNat < 241 := by
  have hfirst : (0 : BitVec 21) + 1 = BitVec.ofNat 21 (len.toNat / 241 + 1) ↔ len.toNat < 241 := by bv_omega
  simpa [CompletesWith, bytesSession, Spec.counted] using hfirst

theorem step_chunk_continues {s : State} {f : List Byte} {rest : List PortEvent} (hv : verify f = true)
    (hfits : Spec.Fits s.cfg f) (hroom : s.buf.length ≠ s.cfg.bufChunks) (hopen : ¬ CompletesWith s)
    (hin : s.inbox = .message .sysex f :: rest) : step s = .next (Spec.appended f { s with inbox := rest }) := by
  rw [step_event rfl rfl hin]
  exact congrArg Host.Outcome.next
    (ingest_fits_continues (s := { s with inbox := rest }) (.inl hv) hfits hroom hopen)

/-- Settles O58: whatever the frame does in `IDLE`, the command opens a fresh session; after the command the frame is
that session's first chunk, which completes it or not (`completesWith_bytesSession`). -/
theorem strayFramesCountTowardTheNewSession : Obligations.StrayFramesCountTowardTheNewSession := by
  intro s addr len f rest hidle hlegal hlen hv hfits
  refine ⟨fun hin => ?before, fun hin => ?after⟩
  case before =>
    obtain ⟨u, hframe, hu, hcfg, hrest⟩ := step_message_idle hidle hin
    exact ⟨_, run_two hframe (step_queryBytes hu hlen (hcfg ▸ hrest)), rfl, rfl, rfl⟩
  case after =>
    have hquery := step_queryBytes hidle hlen hin
    set u := bytesSession addr len { s with inbox := .message .sysex f :: rest }
    have hcompletes : CompletesWith u ↔ len.toNat < 241 := completesWith_bytesSession hlen
    have hroom : u.buf.length ≠ u.cfg.bufChunks := (Nat.pos_iff_ne_zero.1 hlegal.1).symm
    have hbuf : (Spec.appended f { u with inbox := rest }).buf = [⟨Spec.chunkAddr f, Spec.chunkData f, true⟩] := by
      rw [← hv]
      rfl
    by_cases hshort : len.toNat < 241
    · have hchunk := step_lastChunk (s := u) hv hfits hroom (hcompletes.2 hshort) rfl
      refine ⟨_, run_two hquery hchunk, hbuf, rfl, fun _ => ⟨rfl, ?_⟩, fun hlong => absurd hshort (by omega)⟩
      rw [endSessionOk_getLast, resultValue_queryBytes rfl, hbuf]
      simp
    · have hchunk := step_chunk_continues (s := u) hv hfits hroom (mt hcompletes.1 hshort) rfl
      exact ⟨_, run_two hquery hchunk, hbuf, rfl, fun h => absurd h hshort, fun _ => rfl⟩

end Sys2Proof.Machine
end
